-- ==== Sys2Proof/Word.lean ====
section
/-! DEFINITION. The machine's words and their plainest arithmetic (spec/00_scope.md rule R8). -/

namespace Sys2Proof

/-- A "word" is 32 bits (rule R8): a JobConfig register, an address, a stride, a stream counter. -/
abbrev Word := BitVec 32

abbrev Byte := BitVec 8

/-- The bit pattern of one element. An element is `8·EB` bits, `EB ∈ {1, 2, 4}` (rules R6, R8); the
pattern is held zero-extended to 32 bits, so one type serves every `EB`. -/
abbrev Elem := BitVec 32

/-- `ceil_div(a, b) = (a + b - 1) div b` (rule R8). -/
def ceilDivide (a b : Nat) : Nat := (a + b - 1) / b

end Sys2Proof
end

