-- ==== Sys2Proof/Syntax.lean ====
section
/-! DEFINITION. The operations of the block, one constructor per row of spec/opcode_table.json
(spec/30_encoding.md rule R71), their operands, and the words that carry them (rules R59 to R61, R68,
R69). -/

namespace Sys2Proof

/-- The four streams (41_stride_generator R85), in the register map's order `s = 0, 1, 2, 3` (10_state R14). -/
inductive Stream where
  | x | w | y | z
  deriving DecidableEq, Repr

/-- A reference to one tile-store slot, a line of `AW` elements (42_tile_store R97, R100 to R103): a W
row, an X row with its first column, a Y row, a Z row. -/
inductive Slot where
  | w (row : Nat)
  | x (row col : Nat)
  | y (row : Nat)
  | z (row : Nat)
  deriving DecidableEq, Repr

/-- The nine registers a stream has in JobConfig (10_state R14). -/
inductive StreamField where
  | base | totLen | d0Len | d0Stride | d1Len | d1Stride | d2Len | d2Stride | d3Stride
  deriving DecidableEq, Repr

/-- The 39 JobConfig registers (10_state R14): nine per stream and the three packed words. -/
inductive CfgReg where
  | stream (str : Stream) (f : StreamField)
  | wIter
  | xIter
  | leftover
  deriving DecidableEq, Repr

/-- The operations (rule R71), in the opcode table's order. -/
inductive Instr where
  -- format HC: host commands (40_host_commands R77, R78, R83)
  | cfgwrXBase (wdata : Word)
  | cfgwrWBase (wdata : Word)
  | cfgwrYBase (wdata : Word)
  | cfgwrZBase (wdata : Word)
  | cfgwrXTotLen (wdata : Word)
  | cfgwrWTotLen (wdata : Word)
  | cfgwrYTotLen (wdata : Word)
  | cfgwrZTotLen (wdata : Word)
  | cfgwrWIter (rows cols : BitVec 16)
  | cfgwrXIter (rows cols : BitVec 16)
  | cfgwrLeftover (xRowLo xColLo wRowLo wColLo : BitVec 8)
  -- TRIGGER and IRQCLR: the 32 ignored bits are kept so that no bit of the word is lost (R65)
  | trigger (ignored : Word)
  | irqclr (ignored : Word)
  | cfgwrXD0Len (wdata : Word)
  | cfgwrXD0Stride (wdata : Word)
  | cfgwrXD1Len (wdata : Word)
  | cfgwrXD1Stride (wdata : Word)
  | cfgwrXD2Len (wdata : Word)
  | cfgwrXD2Stride (wdata : Word)
  | cfgwrXD3Stride (wdata : Word)
  | cfgwrWD0Len (wdata : Word)
  | cfgwrWD0Stride (wdata : Word)
  | cfgwrWD1Len (wdata : Word)
  | cfgwrWD1Stride (wdata : Word)
  | cfgwrWD2Len (wdata : Word)
  | cfgwrWD2Stride (wdata : Word)
  | cfgwrWD3Stride (wdata : Word)
  | cfgwrYD0Len (wdata : Word)
  | cfgwrYD0Stride (wdata : Word)
  | cfgwrYD1Len (wdata : Word)
  | cfgwrYD1Stride (wdata : Word)
  | cfgwrYD2Len (wdata : Word)
  | cfgwrYD2Stride (wdata : Word)
  | cfgwrYD3Stride (wdata : Word)
  | cfgwrZD0Len (wdata : Word)
  | cfgwrZD0Stride (wdata : Word)
  | cfgwrZD1Len (wdata : Word)
  | cfgwrZD1Stride (wdata : Word)
  | cfgwrZD2Len (wdata : Word)
  | cfgwrZD2Stride (wdata : Word)
  | cfgwrZD3Stride (wdata : Word)
  -- format ST: the scheduler's state steps (43_scheduler R117, R121, R124, R127, R132)
  | fsmIdle
  | fsmStarting
  | fsmComputing
  | fsmStoring
  | fsmFinished
  -- format SEL: the stream-target selector (43_scheduler R135 to R139)
  | stepNone
  | stepW
  | stepX
  | stepY
  | stepZ
  -- format UNIT: operations only another operation invokes (rule R59)
  | sgConfigure (str : Stream) (base totLen d0Len d0Stride d1Len d1Stride d2Len d2Stride d3Stride : Word)
  | sgIterate (str : Stream) (slot : Option Slot) (strobe : Nat)
  | sgIsdone (str : Stream)
  | tsAlloc (n : Word) (xRowLo xColLo wRowLo wColLo : BitVec 8)
  | tsNextw
  | tsNextx
  | tsNexty
  | tsNextz
  | tsComputez
  | tsFree
  | mkstrobe (count width : Nat)
  | schedEntry
  | schedInvoke
  | schedComplete
  deriving DecidableEq, Repr

/-- The four formats of rule R59. -/
inductive Format where
  | hc | st | sel | unit
  deriving DecidableEq, Repr

/-- What carries an operation (rule R59): a 40-bit host-command word, a 3-bit state code, a 3-bit
selector code, or, for a `UNIT` operation, "which has no encoding of its own", the operation itself. -/
inductive OpWord where
  | hc (word : BitVec 40)
  | st (code : BitVec 3)
  | sel (code : BitVec 3)
  | unit (op : Instr)
  deriving DecidableEq, Repr

/-- Why a word carries no operation: a reserved offset (R66), an illegal state code (R68), an illegal
selector code (R69), or an operation that has a word of another format offered as a `UNIT` operation. -/
inductive DecodeError where
  | badOffset (offset : BitVec 8)
  | badState (code : BitVec 3)
  | badSelector (code : BitVec 3)
  | notUnit
  deriving DecidableEq, Repr

end Sys2Proof
end

