-- ==== Sys2Proof/Decode.lean ====
section
/-! DEFINITION. From words to operations and back (spec/30_encoding.md rules R59 to R72). The decoder is
total on every word of every format and rejects by name; the encoder is written from the tables of
rules R61, R68 and R69. -/

namespace Sys2Proof

/-! ## Packed fields (rules R62, R63) -/

/-- `rows<<16 | cols` (R62). -/
def packIter (rows cols : BitVec 16) : Word := rows ++ cols

/-- `rows = v[31:16]` (R62). -/
def iterRows (v : Word) : BitVec 16 := v.extractLsb' 16 16

/-- `cols = v[15:0]` (R62). -/
def iterCols (v : Word) : BitVec 16 := v.extractLsb' 0 16

/-- `X_row_leftover<<24 | X_col_leftover<<16 | W_row_leftover<<8 | W_col_leftover` (R63). -/
def packLeftover (xRowLo xColLo wRowLo wColLo : BitVec 8) : Word := xRowLo ++ xColLo ++ wRowLo ++ wColLo

/-- `x_row_lo = v[31:24]` (R63). -/
def leftoverXRow (v : Word) : BitVec 8 := v.extractLsb' 24 8

/-- `x_col_lo = v[23:16]` (R63). -/
def leftoverXCol (v : Word) : BitVec 8 := v.extractLsb' 16 8

/-- `w_row_lo = v[15:8]` (R63). -/
def leftoverWRow (v : Word) : BitVec 8 := v.extractLsb' 8 8

/-- `w_col_lo = v[7:0]` (R63). -/
def leftoverWCol (v : Word) : BitVec 8 := v.extractLsb' 0 8

/-! ## The register map (rules R14, R61) -/

/-- The place of a stream in the map: `s = 0, 1, 2, 3` for X, W, Y, Z (R14, R61). -/
def streamIndex : Stream → Nat
  | .x => 0
  | .w => 1
  | .y => 2
  | .z => 3

/-- The stream at a place of the map (R61). -/
def streamAt : Nat → Option Stream
  | 0 => some .x
  | 1 => some .w
  | 2 => some .y
  | 3 => some .z
  | _ => none

/-- The offset of a stream's register: its base word, its total-length word, or field `f` of its block
at `0x40 + 0x20·s` (R14, R61). -/
def streamFieldOffset (s : Nat) : StreamField → Nat
  | .base => 4 * s
  | .totLen => 0x10 + 4 * s
  | .d0Len => 0x40 + 0x20 * s
  | .d0Stride => 0x40 + 0x20 * s + 4
  | .d1Len => 0x40 + 0x20 * s + 8
  | .d1Stride => 0x40 + 0x20 * s + 12
  | .d2Len => 0x40 + 0x20 * s + 16
  | .d2Stride => 0x40 + 0x20 * s + 20
  | .d3Stride => 0x40 + 0x20 * s + 24

/-- The byte offset of a JobConfig register (R14). -/
def cfgOffset : CfgReg → BitVec 8
  | .stream str f => BitVec.ofNat 8 (streamFieldOffset (streamIndex str) f)
  | .wIter => 0x20
  | .xIter => 0x24
  | .leftover => 0x28

/-- Field `f` of a stream block, `f = offset[4:2]` in `0..6`; 7 is reserved (R61, R66). -/
def blockField : Nat → Option StreamField
  | 0 => some .d0Len
  | 1 => some .d0Stride
  | 2 => some .d1Len
  | 3 => some .d1Stride
  | 4 => some .d2Len
  | 5 => some .d2Stride
  | 6 => some .d3Stride
  | _ => none

/-- The JobConfig register at a word place `offset / 4` below 0x40 (R61). -/
def headReg : Nat → Option CfgReg
  | 0 => some (.stream .x .base)
  | 1 => some (.stream .w .base)
  | 2 => some (.stream .y .base)
  | 3 => some (.stream .z .base)
  | 4 => some (.stream .x .totLen)
  | 5 => some (.stream .w .totLen)
  | 6 => some (.stream .y .totLen)
  | 7 => some (.stream .z .totLen)
  | 8 => some .wIter
  | 9 => some .xIter
  | 10 => some .leftover
  | _ => none

/-- The JobConfig register at a byte offset, "in bits" as rule R61 has it: none at the command offsets, at
an offset with `offset[1:0] ≠ 0`, and at the reserved ones (R66). -/
def cfgRegAt (offset : BitVec 8) : Option CfgReg :=
  if offset.toNat % 4 ≠ 0 then none
  else if offset.toNat < 0x40 then headReg (offset.toNat / 4)
  else
    match streamAt (offset.toNat / 0x20 - 2), blockField (offset.toNat / 4 % 8) with
    | some str, some f => some (.stream str f)
    | _, _ => none

/-- The host command that writes `v` to a JobConfig register, its fields pulled out (R62, R63, R77). -/
def cfgwrOf (r : CfgReg) (v : Word) : Instr :=
  match r with
  | .stream .x .base => .cfgwrXBase v
  | .stream .x .totLen => .cfgwrXTotLen v
  | .stream .x .d0Len => .cfgwrXD0Len v
  | .stream .x .d0Stride => .cfgwrXD0Stride v
  | .stream .x .d1Len => .cfgwrXD1Len v
  | .stream .x .d1Stride => .cfgwrXD1Stride v
  | .stream .x .d2Len => .cfgwrXD2Len v
  | .stream .x .d2Stride => .cfgwrXD2Stride v
  | .stream .x .d3Stride => .cfgwrXD3Stride v
  | .stream .w .base => .cfgwrWBase v
  | .stream .w .totLen => .cfgwrWTotLen v
  | .stream .w .d0Len => .cfgwrWD0Len v
  | .stream .w .d0Stride => .cfgwrWD0Stride v
  | .stream .w .d1Len => .cfgwrWD1Len v
  | .stream .w .d1Stride => .cfgwrWD1Stride v
  | .stream .w .d2Len => .cfgwrWD2Len v
  | .stream .w .d2Stride => .cfgwrWD2Stride v
  | .stream .w .d3Stride => .cfgwrWD3Stride v
  | .stream .y .base => .cfgwrYBase v
  | .stream .y .totLen => .cfgwrYTotLen v
  | .stream .y .d0Len => .cfgwrYD0Len v
  | .stream .y .d0Stride => .cfgwrYD0Stride v
  | .stream .y .d1Len => .cfgwrYD1Len v
  | .stream .y .d1Stride => .cfgwrYD1Stride v
  | .stream .y .d2Len => .cfgwrYD2Len v
  | .stream .y .d2Stride => .cfgwrYD2Stride v
  | .stream .y .d3Stride => .cfgwrYD3Stride v
  | .stream .z .base => .cfgwrZBase v
  | .stream .z .totLen => .cfgwrZTotLen v
  | .stream .z .d0Len => .cfgwrZD0Len v
  | .stream .z .d0Stride => .cfgwrZD0Stride v
  | .stream .z .d1Len => .cfgwrZD1Len v
  | .stream .z .d1Stride => .cfgwrZD1Stride v
  | .stream .z .d2Len => .cfgwrZD2Len v
  | .stream .z .d2Stride => .cfgwrZD2Stride v
  | .stream .z .d3Stride => .cfgwrZD3Stride v
  | .wIter => .cfgwrWIter (iterRows v) (iterCols v)
  | .xIter => .cfgwrXIter (iterRows v) (iterCols v)
  | .leftover => .cfgwrLeftover (leftoverXRow v) (leftoverXCol v) (leftoverWRow v) (leftoverWCol v)

/-! ## Formats -/

/-- The format of each row of the opcode table (R59, R71). -/
def Instr.format : Instr → Format
  | .cfgwrXBase _ => .hc
  | .cfgwrWBase _ => .hc
  | .cfgwrYBase _ => .hc
  | .cfgwrZBase _ => .hc
  | .cfgwrXTotLen _ => .hc
  | .cfgwrWTotLen _ => .hc
  | .cfgwrYTotLen _ => .hc
  | .cfgwrZTotLen _ => .hc
  | .cfgwrWIter _ _ => .hc
  | .cfgwrXIter _ _ => .hc
  | .cfgwrLeftover _ _ _ _ => .hc
  | .trigger _ => .hc
  | .irqclr _ => .hc
  | .cfgwrXD0Len _ => .hc
  | .cfgwrXD0Stride _ => .hc
  | .cfgwrXD1Len _ => .hc
  | .cfgwrXD1Stride _ => .hc
  | .cfgwrXD2Len _ => .hc
  | .cfgwrXD2Stride _ => .hc
  | .cfgwrXD3Stride _ => .hc
  | .cfgwrWD0Len _ => .hc
  | .cfgwrWD0Stride _ => .hc
  | .cfgwrWD1Len _ => .hc
  | .cfgwrWD1Stride _ => .hc
  | .cfgwrWD2Len _ => .hc
  | .cfgwrWD2Stride _ => .hc
  | .cfgwrWD3Stride _ => .hc
  | .cfgwrYD0Len _ => .hc
  | .cfgwrYD0Stride _ => .hc
  | .cfgwrYD1Len _ => .hc
  | .cfgwrYD1Stride _ => .hc
  | .cfgwrYD2Len _ => .hc
  | .cfgwrYD2Stride _ => .hc
  | .cfgwrYD3Stride _ => .hc
  | .cfgwrZD0Len _ => .hc
  | .cfgwrZD0Stride _ => .hc
  | .cfgwrZD1Len _ => .hc
  | .cfgwrZD1Stride _ => .hc
  | .cfgwrZD2Len _ => .hc
  | .cfgwrZD2Stride _ => .hc
  | .cfgwrZD3Stride _ => .hc
  | .fsmIdle => .st
  | .fsmStarting => .st
  | .fsmComputing => .st
  | .fsmStoring => .st
  | .fsmFinished => .st
  | .stepNone => .sel
  | .stepW => .sel
  | .stepX => .sel
  | .stepY => .sel
  | .stepZ => .sel
  | .sgConfigure _ _ _ _ _ _ _ _ _ _ => .unit
  | .sgIterate _ _ _ => .unit
  | .sgIsdone _ => .unit
  | .tsAlloc _ _ _ _ _ => .unit
  | .tsNextw => .unit
  | .tsNextx => .unit
  | .tsNexty => .unit
  | .tsNextz => .unit
  | .tsComputez => .unit
  | .tsFree => .unit
  | .mkstrobe _ _ => .unit
  | .schedEntry => .unit
  | .schedInvoke => .unit
  | .schedComplete => .unit

/-- The format of a word. -/
def OpWord.format : OpWord → Format
  | .hc _ => .hc
  | .st _ => .st
  | .sel _ => .sel
  | .unit _ => .unit

/-! ## Decoding -/

/-- `offset = word[39:32]` (R60). -/
def hcOffset (word : BitVec 40) : BitVec 8 := word.extractLsb' 32 8

/-- `wdata = word[31:0]` (R60). -/
def hcData (word : BitVec 40) : Word := word.extractLsb' 0 32

/-- Format `HC`, by offset (R61, R65); a reserved offset is rejected with the offset (R66). -/
def decodeHc (word : BitVec 40) : Except DecodeError Instr :=
  match cfgRegAt (hcOffset word) with
  | some r => .ok (cfgwrOf r (hcData word))
  | none =>
    if hcOffset word = 0x2C then .ok (.trigger (hcData word))
    else if hcOffset word = 0x30 then .ok (.irqclr (hcData word))
    else .error (.badOffset (hcOffset word))

/-- Format `ST` (R68). -/
def decodeSt (code : BitVec 3) : Except DecodeError Instr :=
  match code.toNat with
  | 0 => .ok .fsmIdle
  | 1 => .ok .fsmStarting
  | 2 => .ok .fsmComputing
  | 3 => .ok .fsmStoring
  | 4 => .ok .fsmFinished
  | _ => .error (.badState code)

/-- Format `SEL` (R69). -/
def decodeSel (code : BitVec 3) : Except DecodeError Instr :=
  match code.toNat with
  | 0 => .ok .stepNone
  | 1 => .ok .stepW
  | 2 => .ok .stepX
  | 3 => .ok .stepY
  | 4 => .ok .stepZ
  | _ => .error (.badSelector code)

/-- The decoder: total on every word, rejecting by name. -/
def decode : OpWord → Except DecodeError Instr
  | .hc word => decodeHc word
  | .st code => decodeSt code
  | .sel code => decodeSel code
  | .unit op => if op.format = .unit then .ok op else .error .notUnit

/-! ## Encoding -/

/-- `offset[7:0] ++ wdata[31:0]` (R60). -/
def hcWord (offset : BitVec 8) (wdata : Word) : OpWord := .hc (offset ++ wdata)

/-- The word of an operation, from the tables of rules R61, R68, R69. -/
def encode (i : Instr) : OpWord :=
  match i with
  | .cfgwrXBase v => hcWord 0x00 v
  | .cfgwrWBase v => hcWord 0x04 v
  | .cfgwrYBase v => hcWord 0x08 v
  | .cfgwrZBase v => hcWord 0x0C v
  | .cfgwrXTotLen v => hcWord 0x10 v
  | .cfgwrWTotLen v => hcWord 0x14 v
  | .cfgwrYTotLen v => hcWord 0x18 v
  | .cfgwrZTotLen v => hcWord 0x1C v
  | .cfgwrWIter rows cols => hcWord 0x20 (packIter rows cols)
  | .cfgwrXIter rows cols => hcWord 0x24 (packIter rows cols)
  | .cfgwrLeftover a b c d => hcWord 0x28 (packLeftover a b c d)
  | .trigger v => hcWord 0x2C v
  | .irqclr v => hcWord 0x30 v
  | .cfgwrXD0Len v => hcWord 0x40 v
  | .cfgwrXD0Stride v => hcWord 0x44 v
  | .cfgwrXD1Len v => hcWord 0x48 v
  | .cfgwrXD1Stride v => hcWord 0x4C v
  | .cfgwrXD2Len v => hcWord 0x50 v
  | .cfgwrXD2Stride v => hcWord 0x54 v
  | .cfgwrXD3Stride v => hcWord 0x58 v
  | .cfgwrWD0Len v => hcWord 0x60 v
  | .cfgwrWD0Stride v => hcWord 0x64 v
  | .cfgwrWD1Len v => hcWord 0x68 v
  | .cfgwrWD1Stride v => hcWord 0x6C v
  | .cfgwrWD2Len v => hcWord 0x70 v
  | .cfgwrWD2Stride v => hcWord 0x74 v
  | .cfgwrWD3Stride v => hcWord 0x78 v
  | .cfgwrYD0Len v => hcWord 0x80 v
  | .cfgwrYD0Stride v => hcWord 0x84 v
  | .cfgwrYD1Len v => hcWord 0x88 v
  | .cfgwrYD1Stride v => hcWord 0x8C v
  | .cfgwrYD2Len v => hcWord 0x90 v
  | .cfgwrYD2Stride v => hcWord 0x94 v
  | .cfgwrYD3Stride v => hcWord 0x98 v
  | .cfgwrZD0Len v => hcWord 0xA0 v
  | .cfgwrZD0Stride v => hcWord 0xA4 v
  | .cfgwrZD1Len v => hcWord 0xA8 v
  | .cfgwrZD1Stride v => hcWord 0xAC v
  | .cfgwrZD2Len v => hcWord 0xB0 v
  | .cfgwrZD2Stride v => hcWord 0xB4 v
  | .cfgwrZD3Stride v => hcWord 0xB8 v
  | .fsmIdle => .st 0
  | .fsmStarting => .st 1
  | .fsmComputing => .st 2
  | .fsmStoring => .st 3
  | .fsmFinished => .st 4
  | .stepNone => .sel 0
  | .stepW => .sel 1
  | .stepX => .sel 2
  | .stepY => .sel 3
  | .stepZ => .sel 4
  | .sgConfigure a b c d e f g h j k => .unit (.sgConfigure a b c d e f g h j k)
  | .sgIterate a b c => .unit (.sgIterate a b c)
  | .sgIsdone a => .unit (.sgIsdone a)
  | .tsAlloc a b c d e => .unit (.tsAlloc a b c d e)
  | .tsNextw => .unit (.tsNextw)
  | .tsNextx => .unit (.tsNextx)
  | .tsNexty => .unit (.tsNexty)
  | .tsNextz => .unit (.tsNextz)
  | .tsComputez => .unit (.tsComputez)
  | .tsFree => .unit (.tsFree)
  | .mkstrobe a b => .unit (.mkstrobe a b)
  | .schedEntry => .unit (.schedEntry)
  | .schedInvoke => .unit (.schedInvoke)
  | .schedComplete => .unit (.schedComplete)

/-! ## The host's numbering of table words -/

/-- The word that `nbits` bits `w` of spec/opcode_table.json stand for. A 40-bit word is a host command.
A word of at most 8 bits whose value fits 3 bits is read as a state code: the table gives the `SEL` rows
the same bits as the `ST` rows and the `UNIT` rows no bits at all, so no reader of bits alone could tell
them apart (log entry 19). -/
def tableWord (nbits w : Nat) : Option OpWord :=
  if nbits = 40 then (if w < 2 ^ 40 then some (.hc (BitVec.ofNat 40 w)) else none)
  else if nbits ≤ 8 then (if w < 8 then some (.st (BitVec.ofNat 3 w)) else none)
  else none

/-- What the decoder reads from a table word (the host's question; log entry 19). -/
def decodeTableWord (nbits w : Nat) : Option Instr :=
  match tableWord nbits w with
  | none => none
  | some word =>
    match decode word with
    | .ok i => some i
    | .error _ => none

end Sys2Proof
end

