-- ==== Sys2Proof/Config.lean ====
section
/-! DEFINITION. What an implementation fixes (spec/00_scope.md rule R6) and the free values: opaque
constants without a body, so that no proof can rest on a value of theirs. -/

namespace Sys2Proof

/-- Which numerics record `NUM` the block has (00_scope R6, 42_tile_store R105). `standard` is the
default of rule R105 (binary16 for `EB = 2`, binary32 for `EB = 4`, the narrow 8-bit rule R107 for
`EB = 1`); `other` stands for any other record, named by a tag, of which nothing is known. -/
inductive NumRecord where
  | standard
  | other (tag : Nat)
  deriving DecidableEq, Repr

/-- The parameter record of rule R6. `AW`, `LB` and the schedule-shape constants are derived
(`Machine/Geometry.lean`). -/
structure Params where
  /-- `H`, ARRAY_HEIGHT. -/
  h : Nat
  /-- `PR`, PIPE_REGS. -/
  pr : Nat
  /-- `PD`, PIPE_DEPTH. -/
  pd : Nat
  /-- `EB`, ELEM_BYTES. -/
  eb : Nat
  /-- XLOAD_CYCLES, the cycles of the first COMPUTING hypercycle that carry an X-load. -/
  xload : List Nat
  /-- NUM. -/
  num : NumRecord
  deriving DecidableEq, Repr

/-- The values of rule R6's table: Scenario A (`H = 4`, `PR = 3`) with this spec's defaults
`PD = 3`, `EB = 2`, `XLOAD_CYCLES = {H-2}`. -/
def Params.scenarioA : Params :=
  { h := 4, pr := 3, pd := 3, eb := 2, xload := [2], num := .standard }

/-- What the memory primitive reports of an access (20_memory R35): "completed successfully", or
anything else (pending, denied, error), told apart by a code nothing reads but the diagnostic. -/
inductive MemStatus where
  | success
  | other (code : Nat)
  deriving DecidableEq, Repr, Inhabited

/-- The answer to one access: status and latency (20_memory R33, R34, R36). -/
structure MemAnswer where
  status : MemStatus
  latency : Nat
  deriving DecidableEq, Repr, Inhabited

/-- FREE VALUE (log entry 5). The memory's answer number `k` once the answers listed in the state are
used up: status and latency are inputs nothing bounds (20_memory R36). -/
opaque Config.memAnswer : Nat → MemAnswer

/-- FREE VALUE (log entry 7). The pattern of a NaN result, as a function of the operands: sign and
mantissa bits are taken from it ("any NaN result being an unspecified NaN pattern", 42_tile_store R105). -/
opaque Config.nanPattern : Nat → Elem → Elem → Elem → Elem

/-- FREE VALUE (log entry 9). `NUM.widen` of the 8-bit format, which is a parameter without default
(42_tile_store R107); a pattern of the wide format is held as a number. -/
opaque Config.widen : Byte → Nat

/-- FREE VALUE (log entry 9). `NUM.narrow` of the 8-bit format (42_tile_store R107). -/
opaque Config.narrow : Nat → Byte

/-- FREE VALUE (log entry 9). The fused multiply-add of the wide working format (42_tile_store R107). -/
opaque Config.fmaWide : Nat → Nat → Nat → Nat

/-- FREE VALUE (log entry 10). `NUM.fma` of a numerics record other than the default, by its tag and
the element width in bytes (42_tile_store R105: "A model keeps `NUM` as a field"). -/
opaque Config.otherFma : Nat → Nat → Elem → Elem → Elem → Elem

end Sys2Proof
end

