-- ==== Sys2Proof/Machine/Geometry.lean ====
section
/-! DEFINITION. The constants derived from the parameters: spec/00_scope.md rules R6, R7 and the
tile-store geometry of spec/42_tile_store.md rule R99. -/

namespace Sys2Proof

/-- `AW = H × PR`: elements in one line; rows and columns of an output tile (R6). -/
def Params.aw (p : Params) : Nat := p.h * p.pr

/-- `LB = AW × EB`: bytes moved by one transaction (R6). -/
def Params.lb (p : Params) : Nat := p.aw * p.eb

/-- `NCYC = H`: cycles in a hypercycle (R7). -/
def Params.ncyc (p : Params) : Nat := p.h

/-- `NSUB = PD + 1`: subcycles in a cycle (R7). -/
def Params.nsub (p : Params) : Nat := p.pd + 1

/-- `NPAY = AW / H = PR`: the payload subcycles of a cycle are `1..NPAY` (R7). -/
def Params.npay (p : Params) : Nat := p.pr

/-- `NPRE = 3 × AW`: preload steps (R7). -/
def Params.npre (p : Params) : Nat := 3 * p.aw

/-- `NPRE_Y = AW`: the first of the preload steps are Y-fills (R7). -/
def Params.npreY (p : Params) : Nat := p.aw

/-- `FULL`, the strobe with all `LB` bits one (30_encoding R70, 44_strobe R142). -/
def Params.full (p : Params) : Nat := 2 ^ p.lb - 1

/-- `pad(L) = (L = 0 ? 0 : AW - L)` (R99), for a leftover count, `0..AW-1`. DESIGN CHOICE: for `L` above `AW`,
where `AW - L` is no number of rows and the spec gives no padding, it is 0 (log entry 36). -/
def Params.pad (p : Params) (l : Nat) : Nat := if l = 0 then 0 else p.aw - l

/-- The extra double-buffer width of X, `2·H·(PD+1)` (R99). -/
def Params.xExtra (p : Params) : Nat := 2 * p.h * (p.pd + 1)

/-- The constraints of rule R6's table. -/
def Params.wf (p : Params) : Bool :=
  decide (1 ≤ p.h) && decide (1 ≤ p.pr) && decide (p.pr ≤ p.pd) &&
    decide (p.eb = 1 ∨ p.eb = 2 ∨ p.eb = 4) && p.xload.all (fun c => decide (c < p.h))

end Sys2Proof
end

