-- ==== Sys2Proof/Machine/State.lean ====
section
/-! DEFINITION. The state of the block (spec/10_state.md rules R13 to R29), as plain data, and its value
at reset. Beside the block's own state stand the parameters (constant), the external memory, and the
inputs the environment is going to give (rules R28, R36, R163). -/

namespace Sys2Proof.Machine

/-! ## Memory and buffers -/

/-- External memory (20_memory R31): the bytes whose content is known, in one canonical form (addresses
strictly rising). A byte that is not listed has "no value": its content is unknown (log entry 4). -/
abbrev Memory := List Host.Cell

/-- An element of a tile buffer: a bit pattern or "no value" (10_state R19, 00_scope R10). -/
abbrev TileElem := Option Elem

/-- A tile buffer, a list of rows (10_state R19). -/
abbrev TileBuf := List (List TileElem)

/-! ## JobConfig and the job copy -/

/-- The nine registers of one stream in JobConfig (10_state R14); `none` is "no value" (R16). -/
structure StreamCfg where
  base : Option Word
  totLen : Option Word
  d0Len : Option Word
  d0Stride : Option Word
  d1Len : Option Word
  d1Stride : Option Word
  d2Len : Option Word
  d2Stride : Option Word
  d3Stride : Option Word
  deriving DecidableEq, Repr

/-- The JobConfig register file, 39 registers (10_state R14); `none` is "no value" (R16). -/
structure JobConfig where
  x : StreamCfg
  w : StreamCfg
  y : StreamCfg
  z : StreamCfg
  wIter : Option Word
  xIter : Option Word
  leftover : Option Word
  deriving DecidableEq, Repr

/-- The job copy latched at trigger (10_state R17, 40_host_commands R80). -/
structure Job where
  wCols : BitVec 16
  wRows : BitVec 16
  xCols : BitVec 16
  xRows : BitVec 16
  xRowLo : BitVec 8
  xColLo : BitVec 8
  wRowLo : BitVec 8
  wColLo : BitVec 8
  n : Word
  nh : Nat
  wpad : Nat
  xpad : Nat
  deriving DecidableEq, Repr

/-! ## Stream descriptors -/

/-- A stream descriptor `sg[s]` (10_state R18): configuration, positions, counters, latency. -/
structure StreamDesc where
  base : Word
  totLen : Word
  d0Len : Word
  d0Stride : Word
  d1Len : Word
  d1Stride : Word
  d2Len : Word
  d2Stride : Word
  d3Stride : Word
  d0Pos : Word
  d1Pos : Word
  d2Pos : Word
  d3Pos : Word
  d0Cnt : Word
  d1Cnt : Word
  d2Cnt : Word
  doneCnt : Word
  latCum : Nat
  deriving DecidableEq, Repr

/-- The four stride generators (41_stride_generator R85). -/
structure Streams where
  x : StreamDesc
  w : StreamDesc
  y : StreamDesc
  z : StreamDesc
  deriving DecidableEq, Repr

/-! ## Tile store -/

/-- The tile store (10_state R19, R20). `w` and `x` are absent (`none`) outside the interval between
`TS.ALLOC` and `TS.FREE`. -/
structure TileStore where
  w : Option TileBuf
  x : Option TileBuf
  y : TileBuf
  z : TileBuf
  wCnt : Nat
  xI : Nat
  xC : Nat
  yCnt : Nat
  zCnt : Nat
  xOffs : Nat
  yOffs : Nat
  allocated : Bool
  deriving DecidableEq, Repr

/-! ## Scheduler -/

/-- The scheduler's position, progress and latency accumulators (10_state R21, R22, R25). The state
register keeps its 3 bits, so that an illegal code can stand in it (30_encoding R68). -/
structure Sched where
  state : BitVec 3
  pre : Nat
  hyper : Word
  cyc : Nat
  sub : Nat
  wColsIters : BitVec 16
  xRowsIters : BitVec 16
  jobDone : Bool
  finalRow : Bool
  zStrb : Nat
  latAcc : Nat
  latTotal : Nat
  deriving DecidableEq, Repr

/-- The state codes (30_encoding R68). -/
abbrev stIdle : BitVec 3 := 0
/-- The code of STARTING (30_encoding R68). -/
abbrev stStarting : BitVec 3 := 1
/-- The code of COMPUTING (30_encoding R68). -/
abbrev stComputing : BitVec 3 := 2
/-- The code of STORING (30_encoding R68). -/
abbrev stStoring : BitVec 3 := 3
/-- The code of FINISHED (30_encoding R68). -/
abbrev stFinished : BitVec 3 := 4

/-- The selector codes (30_encoding R69). -/
abbrev selNone : BitVec 3 := 0
/-- The selector of a W load (30_encoding R69). -/
abbrev selW : BitVec 3 := 1
/-- The selector of an X load (30_encoding R69). -/
abbrev selX : BitVec 3 := 2
/-- The selector of a Y load (30_encoding R69). -/
abbrev selY : BitVec 3 := 3
/-- The selector of a Z store (30_encoding R69). -/
abbrev selZ : BitVec 3 := 4

/-! ## Fatal conditions -/

/-- The two continuations (10_state R24). -/
inductive Continuation where
  | main
  | completion
  deriving DecidableEq, Repr

/-- Which check of `cfg_valid` failed (40_host_commands R79 a to d). -/
inductive ConfigCheck where
  | unwritten
  | zeroCount
  | leftoverTooLarge
  | zeroLength
  deriving DecidableEq, Repr

/-- The fatal conditions with what is "recorded with it" (60_exceptions R147). -/
inductive Fatal where
  | badState (state : BitVec 3)
  | badSelector (selector : BitVec 3)
  | memStatus (str : Stream) (addr : Word) (status : MemStatus)
  | doubleSchedule (kind : Continuation)
  | triggerWhileBusy (state : BitVec 3)
  | cfgWhileBusy (offset : BitVec 8)
  | badConfig (check : ConfigCheck)
  | badOffset (offset : BitVec 8)
  deriving DecidableEq, Repr

/-! ## Inputs and results -/

/-- What the outside can do to the machine between two steps (60_exceptions R161, R163; log entry 1):
present a word (a host command, or an operation of the block such as a pending continuation), assert
reset, or, as another bus master, change a byte of memory (20_memory R44; `none` makes it unknown). -/
inductive Input where
  | word (word : OpWord)
  | reset
  | memory (addr : Word) (value : Option Byte)
  deriving DecidableEq, Repr

/-- The value an operation returns to its caller (log entry 16): a latency, a truth value, a slot, a
strobe. -/
inductive Result where
  | nothing
  | latency (l : Nat)
  | truth (b : Bool)
  | slot (sl : Slot)
  | strobe (m : Nat)
  deriving DecidableEq, Repr

/-! ## The state -/

/-- The machine's state: every piece of state of rule R13, and below it what rule R28 keeps outside the
block but a step of the model needs. -/
structure State where
  /-- The JobConfig register file (R14, R16). -/
  cfg : JobConfig
  /-- The job copy; `none` is "no value" (R17). -/
  job : Option Job
  /-- The stream descriptors (R18). -/
  sg : Streams
  /-- The tile store (R19, R20). -/
  ts : TileStore
  /-- The scheduler (R21, R22, R25). -/
  sch : Sched
  /-- The interrupt level (R23). -/
  irq : Bool
  /-- A main-loop continuation is pending (R24). -/
  mainPending : Bool
  /-- A completion continuation is pending (R24). -/
  donePending : Bool
  /-- The fault register (R26). -/
  fault : Option Fatal
  /-- The parameters (00_scope R6): constant, no step writes them (log entry 2). -/
  par : Params
  /-- External memory (20_memory R31; log entry 4). -/
  mem : Memory
  /-- What the environment does next, in order (log entry 1). -/
  inbox : List Input
  /-- The memory's next answers, in order (20_memory R36; log entry 5). -/
  memAnswers : List MemAnswer
  /-- The model's own counter of free answers drawn (log entry 5). -/
  memDraws : Nat
  /-- The model's own field: the last value returned by an operation (log entry 16). -/
  result : Result
  deriving DecidableEq, Repr

/-! ## Reset -/

/-- All nine registers of a stream without value (R16). -/
def StreamCfg.unwritten : StreamCfg := ⟨none, none, none, none, none, none, none, none, none⟩

/-- All 39 registers without value (R16). -/
def JobConfig.unwritten : JobConfig :=
  ⟨.unwritten, .unwritten, .unwritten, .unwritten, none, none, none⟩

/-- Every field 0 (R18). -/
def StreamDesc.zero : StreamDesc := ⟨0, 0, 0, 0, 0, 0, 0, 0, 0, 0, 0, 0, 0, 0, 0, 0, 0, 0⟩

/-- A buffer of all-zero elements. -/
def TileBuf.zeros (rows cols : Nat) : TileBuf := List.replicate rows (List.replicate cols (some 0))

/-- A buffer of elements without value (42_tile_store R98). -/
def TileBuf.unloaded (rows cols : Nat) : TileBuf := List.replicate rows (List.replicate cols none)

/-- W and X absent, Y and Z all-zero bits, every cursor and offset 0 (R19, R20, 42_tile_store R110). -/
def TileStore.free (p : Params) : TileStore :=
  { w := none, x := none, y := TileBuf.zeros (2 * p.aw) p.aw, z := TileBuf.zeros p.aw p.aw,
    wCnt := 0, xI := 0, xC := 0, yCnt := 0, zCnt := 0, xOffs := 0, yOffs := 0, allocated := false }

/-- IDLE, counters and flags 0, `z_strb` all ones (R21, R22, R25). -/
def Sched.idle (p : Params) : Sched :=
  { state := stIdle, pre := 0, hyper := 0, cyc := 0, sub := 0, wColsIters := 0, xRowsIters := 0,
    jobDone := false, finalRow := false, zStrb := p.full, latAcc := 0, latTotal := 0 }

/-- The state after reset of a block with parameters `p` (R29, 70_reset R167). -/
def State.initial (p : Params) : State :=
  { cfg := .unwritten, job := none, sg := ⟨.zero, .zero, .zero, .zero⟩, ts := .free p,
    sch := .idle p, irq := false, mainPending := false, donePending := false, fault := none,
    par := p, mem := [], inbox := [], memAnswers := [], memDraws := 0, result := .nothing }

/-- The machine right after reset, with the parameters of rule R6's table. -/
def State.reset : State := State.initial .scenarioA

/-! ## How a step can end otherwise -/

/-- A step that cannot be taken. -/
inductive Fault where
  /-- Raised by `step` alone, when a fatal condition is recorded and the environment has nothing queued:
  "While it is set no agent of the block has a step" (10_state R26). Safe: the machine stops where the
  block has stopped; reset is an input (log entry 12). -/
  | blockStopped (f : Fatal)
  deriving DecidableEq, Repr

/-- An operation the spec gives no meaning in the state it is offered in. None is reachable while only
host commands, continuations and reset are offered (log entry 17). All are safe: they only stop. -/
inductive Refusal where
  /-- An operation the model has no meaning for; raised by `exec`'s refused arms only (there is none). Safe. -/
  | notModelled (mnemonic : String)
  /-- Raised by `SG.ITERATE` with a slot on a stream that is done (41_stride_generator R91, 93 U6). Safe. -/
  | streamAlreadyDone
  /-- Raised by `SG.ITERATE` with a slot that is in no buffer (42_tile_store R100 to R103). Safe. -/
  | slotAbsent
  /-- Raised by `TS.NEXTW`, `TS.NEXTX`, `TS.COMPUTEZ` when W and X are absent: they "have no elements"
  (10_state R19); and by `TS.NEXTW` when W is present with no row (log entry 36). Safe. -/
  | tilesAbsent
  /-- Raised by `TS.COMPUTEZ` and the end of a hypercycle when the job copy has no value (10_state R17). Safe. -/
  | jobAbsent
  /-- Raised by `SCHED.ENTRY` when JobConfig is not valid: it is invoked only by a `TRIGGER` that found it
  valid, and `n` would be undefined (40_host_commands R79, R80). Safe. -/
  | configNotValid
  /-- Raised by `MKSTROBE` for a width outside 1, 2, 4, which "has no base mask" (44_strobe R145). Safe. -/
  | noBaseMask
  /-- Raised by `step` when an operation that has a word of its own format is offered as a `UNIT`
  operation (30_encoding R59; log entry 20). Safe. -/
  | notUnit
  deriving DecidableEq, Repr

/-- How a unit operation ends: a value and a state, a fatal condition already recorded in the state
(60_exceptions R147), or a refusal. -/
inductive Res (α : Type) where
  | ok (a : α) (s : State)
  | fatal (s : State)
  | refused (r : Refusal)

/-- What a step is about to do: run an operation in a state, become a state, or stay stopped. -/
inductive Action where
  | run (i : Instr) (s : State)
  | become (s : State)
  | stopped (f : Fatal)
  | refuse (r : Refusal)

end Sys2Proof.Machine
end

