-- ==== Sys2Proof/Machine/Ops.lean ====
section
/-! DEFINITION. The named operations over the state: field updates, memory, register files, taking a
fatal condition (spec/60_exceptions.md rules R147, R153, R158) and the reset that is its only return
(R159), the memory's answers, and what the environment's next input does. -/

namespace Sys2Proof.Machine

/-! ## Updates of the state, one field each -/

/-- The state with `cfg` replaced. -/
def State.setCfg (s : State) (v : JobConfig) : State := { s with cfg := v }

/-- The state with `job` replaced. -/
def State.setJob (s : State) (v : Option Job) : State := { s with job := v }

/-- The state with `sg` replaced. -/
def State.setSg (s : State) (v : Streams) : State := { s with sg := v }

/-- The state with `ts` replaced. -/
def State.setTs (s : State) (v : TileStore) : State := { s with ts := v }

/-- The state with `sch` replaced. -/
def State.setSch (s : State) (v : Sched) : State := { s with sch := v }

/-- The state with `irq` replaced. -/
def State.setIrq (s : State) (v : Bool) : State := { s with irq := v }

/-- The state with `mainPending` replaced. -/
def State.setMainPending (s : State) (v : Bool) : State := { s with mainPending := v }

/-- The state with `donePending` replaced. -/
def State.setDonePending (s : State) (v : Bool) : State := { s with donePending := v }

/-- The state with `fault` replaced. -/
def State.setFault (s : State) (v : Option Fatal) : State := { s with fault := v }

/-- The state with `mem` replaced. -/
def State.setMem (s : State) (v : Memory) : State := { s with mem := v }

/-- The state with `inbox` replaced. -/
def State.setInbox (s : State) (v : List Input) : State := { s with inbox := v }

/-- The state with `memAnswers` replaced. -/
def State.setMemAnswers (s : State) (v : List MemAnswer) : State := { s with memAnswers := v }

/-- The state with `memDraws` replaced. -/
def State.setMemDraws (s : State) (v : Nat) : State := { s with memDraws := v }

/-- The state with `result` replaced. -/
def State.setResult (s : State) (v : Result) : State := { s with result := v }

/-! ## Register files -/

/-- One of a stream's nine JobConfig registers (10_state R14). -/
def StreamCfg.reg (c : StreamCfg) : StreamField → Option Word
  | .base => c.base
  | .totLen => c.totLen
  | .d0Len => c.d0Len
  | .d0Stride => c.d0Stride
  | .d1Len => c.d1Len
  | .d1Stride => c.d1Stride
  | .d2Len => c.d2Len
  | .d2Stride => c.d2Stride
  | .d3Stride => c.d3Stride

/-- A stream's registers with one replaced. -/
def StreamCfg.setReg (c : StreamCfg) (f : StreamField) (v : Option Word) : StreamCfg :=
  match f with
  | .base => { c with base := v }
  | .totLen => { c with totLen := v }
  | .d0Len => { c with d0Len := v }
  | .d0Stride => { c with d0Stride := v }
  | .d1Len => { c with d1Len := v }
  | .d1Stride => { c with d1Stride := v }
  | .d2Len => { c with d2Len := v }
  | .d2Stride => { c with d2Stride := v }
  | .d3Stride => { c with d3Stride := v }

/-- `cfg.<REG>` (00_scope R9); `none` is "no value" (10_state R16). -/
def JobConfig.reg (c : JobConfig) : CfgReg → Option Word
  | .stream .x f => c.x.reg f
  | .stream .w f => c.w.reg f
  | .stream .y f => c.y.reg f
  | .stream .z f => c.z.reg f
  | .wIter => c.wIter
  | .xIter => c.xIter
  | .leftover => c.leftover

/-- `cfg.<REG> <- v` (00_scope R9). -/
def JobConfig.setReg (c : JobConfig) (r : CfgReg) (v : Option Word) : JobConfig :=
  match r with
  | .stream .x f => { c with x := c.x.setReg f v }
  | .stream .w f => { c with w := c.w.setReg f v }
  | .stream .y f => { c with y := c.y.setReg f v }
  | .stream .z f => { c with z := c.z.setReg f v }
  | .wIter => { c with wIter := v }
  | .xIter => { c with xIter := v }
  | .leftover => { c with leftover := v }

/-- `sg[s]` (00_scope R9). -/
def Streams.desc (g : Streams) : Stream → StreamDesc
  | .x => g.x
  | .w => g.w
  | .y => g.y
  | .z => g.z

/-- `sg[s] <- d`. -/
def Streams.setDesc (g : Streams) (str : Stream) (d : StreamDesc) : Streams :=
  match str with
  | .x => { g with x := d }
  | .w => { g with w := d }
  | .y => { g with y := d }
  | .z => { g with z := d }

/-- The state with one stream descriptor replaced. -/
def State.setDesc (s : State) (str : Stream) (d : StreamDesc) : State := s.setSg (s.sg.setDesc str d)

/-! ## External memory (20_memory R31, R33, R34) -/

/-- The canonical form: addresses strictly rising and inside the 32-bit space (R31). -/
abbrev Memory.wf (m : Memory) : Prop :=
  (m.map Prod.fst).Pairwise (· < ·) ∧ ∀ c ∈ m, c.1 < 2 ^ 32

/-- What a byte of memory holds: its content where known, "no value" at an unlisted address (log entry 4). -/
def Memory.read : Memory → Nat → Option Byte
  | [], _ => none
  | (k, v) :: m, a => if k = a then some v else Memory.read m a

/-- A cell for a known byte, none for an unknown one, before the rest of a memory. -/
def Memory.cons (a : Nat) (v : Option Byte) (m : Memory) : Memory :=
  match v with
  | some b => (a, b) :: m
  | none => m

/-- One byte written; a byte whose value becomes unknown is no longer listed, so the form stays canonical. -/
def Memory.write : Memory → Nat → Option Byte → Memory
  | [], a, v => Memory.cons a v []
  | (k, b) :: m, a, v =>
    if k < a then (k, b) :: Memory.write m a v
    else if k = a then Memory.cons a v m
    else Memory.cons a v ((k, b) :: m)

/-- The address of byte `q` of a transaction at `addr`: `u32(addr + q)` (R33, R34, R40). -/
def byteAddr (addr : Word) (q : Nat) : Nat := (addr + BitVec.ofNat 32 q).toNat

/-- The data bytes of `MemRead(addr, count)` (R33). -/
def Memory.readBytes (m : Memory) (addr : Word) (count : Nat) : List (Option Byte) :=
  (List.range count).map (fun q => Memory.read m (byteAddr addr q))

/-- The data bytes of `MemWrite`, from byte `q` on: byte `q` is written iff strobe bit `q` is 1 (R34). -/
def Memory.writeFrom (m : Memory) (addr : Word) (strobe : Nat) (q : Nat) : List (Option Byte) → Memory
  | [] => m
  | b :: bs =>
    Memory.writeFrom (if strobe.testBit q then Memory.write m (byteAddr addr q) b else m)
      addr strobe (q + 1) bs

/-- `MemWrite(addr, n, bytes, strobe)` on the memory (R34). -/
def Memory.writeBytes (m : Memory) (addr : Word) (strobe : Nat) (bytes : List (Option Byte)) : Memory :=
  Memory.writeFrom m addr strobe 0 bytes

/-- The memory's answer to the next access: the next one listed, else a free draw (R36; log entry 5). -/
def nextAnswer (s : State) : MemAnswer × State :=
  match s.memAnswers with
  | a :: rest => (a, s.setMemAnswers rest)
  | [] => (Config.memAnswer s.memDraws, s.setMemDraws (s.memDraws + 1))

/-! ## Taking a fatal condition, and ending an operation -/

/-- `raise Fatal(code)` and `refuse(code)`: "if `fault` is none, `fault <- code`" with its diagnostic; every
other piece of state stays as it is at the point of the raise (60_exceptions R147, R153, R158). -/
def raiseFatal (f : Fatal) (s : State) : State :=
  if s.fault.isNone then s.setFault (some f) else s

/-- The code numbers of rule R147. -/
def fatalCode : Fatal → Nat
  | .badState _ => 1
  | .badSelector _ => 2
  | .memStatus _ _ _ => 3
  | .doubleSchedule _ => 4
  | .triggerWhileBusy _ => 5
  | .cfgWhileBusy _ => 6
  | .badConfig _ => 7
  | .badOffset _ => 8

/-- The rest of an operation after a part of it: nothing after a fatal condition (R147). -/
def Res.bind {α β : Type} (r : Res α) (f : α → State → Res β) : Res β :=
  match r with
  | .ok a s => f a s
  | .fatal s => .fatal s
  | .refused why => .refused why

/-- The outcome of an operation that returns a value, kept in `result` (log entry 16). -/
def finish {α : Type} (r : Res α) (toResult : α → Result) : Host.Outcome State Fault Refusal :=
  match r with
  | .ok a s => .next (s.setResult (toResult a))
  | .fatal s => .next s
  | .refused why => .refused why

/-- The outcome of an operation that returns nothing. -/
def finishUnit (r : Res Unit) : Host.Outcome State Fault Refusal :=
  match r with
  | .ok _ s => .next s
  | .fatal s => .next s
  | .refused why => .refused why

/-- While `fault` is set no operation has an effect (60_exceptions R147; log entry 12). -/
def unlessStopped (s : State) (o : Host.Outcome State Fault Refusal) : Host.Outcome State Fault Refusal :=
  if s.fault.isSome then .next s else o

/-- The reset input (70_reset R167, R168): every piece of the block's state at its reset value; memory, the
parameters and what the environment is going to do stay. The return from a fatal condition (R159). -/
def resetInput (s : State) : State :=
  { State.initial s.par with
    mem := s.mem, inbox := s.inbox, memAnswers := s.memAnswers, memDraws := s.memDraws }

/-! ## The next input (log entry 1) -/

/-- What a word that decodes to nothing does: a reserved offset, an illegal state code or selector code is
its fatal condition (30_encoding R66, R68, R69). -/
def undecodable (e : DecodeError) (s : State) : Action :=
  match e with
  | .badOffset o => .become (raiseFatal (.badOffset o) s)
  | .badState c => .become (raiseFatal (.badState c) s)
  | .badSelector c => .become (raiseFatal (.badSelector c) s)
  | .notUnit => .refuse .notUnit

/-- A word presented to the machine: decode it and run what it carries. -/
def presentWord (w : OpWord) (s : State) : Action :=
  match decode w with
  | .ok i => .run i s
  | .error e => undecodable e s

/-- What the scheduler does of its own when the environment has nothing queued: nothing after a fatal
condition (10_state R26), else the pending continuation (43_scheduler R118, R132), else it idles (R117). -/
def ownAction (s : State) : Action :=
  match s.fault with
  | some f => .stopped f
  | none =>
    if s.donePending then .run .schedComplete s
    else if s.mainPending then .run .schedInvoke s
    else .become s

/-- What the next step does. -/
def nextAction (s : State) : Action :=
  match s.inbox with
  | [] => ownAction s
  | .reset :: rest => .become (resetInput (s.setInbox rest))
  | .memory addr value :: rest =>
    .become ((s.setInbox rest).setMem (Memory.write s.mem addr.toNat value))
  | .word w :: rest => presentWord w (s.setInbox rest)

/-- A word put where the next step takes its operation from. -/
def placeWord (w : OpWord) (s : State) : State := s.setInbox (.word w :: s.inbox)

end Sys2Proof.Machine
end

