-- ==== Sys2Proof/Machine/Operands.lean ====
section
/-! DEFINITION. Operand forms: what is read from JobConfig, the address of a stream step (spec/41 rule
R87), lines, bytes and elements (spec/20 rules R38, R39, spec/41 rule R93), and the element positions of a
tile-store slot (spec/42 rules R100 to R103). -/

namespace Sys2Proof.Machine

/-! ## Reading JobConfig -/

/-- A stream's nine fields. -/
def allStreamFields : List StreamField :=
  [.base, .totLen, .d0Len, .d0Stride, .d1Len, .d1Stride, .d2Len, .d2Stride, .d3Stride]

/-- The 39 JobConfig registers (10_state R14). -/
def allCfgRegs : List CfgReg :=
  [Stream.x, Stream.w, Stream.y, Stream.z].flatMap (fun str => allStreamFields.map (CfgReg.stream str)) ++
    [.wIter, .xIter, .leftover]

/-- "Every one of the 39 JobConfig registers has a value" (40_host_commands R79 a). -/
def JobConfig.allWritten (c : JobConfig) : Bool := allCfgRegs.all (fun r => (c.reg r).isSome)

/-- The value of a register that has one. Only read after `allWritten` was found true: the 0 of a register
without value is never used. -/
def JobConfig.val (c : JobConfig) (r : CfgReg) : Word := (c.reg r).getD 0

/-! ## Addresses -/

/-- `u32(base + d0_pos + d1_pos + d2_pos + d3_pos)` (41_stride_generator R87). -/
def StreamDesc.addr (d : StreamDesc) : Word := d.base + d.d0Pos + d.d1Pos + d.d2Pos + d.d3Pos

/-! ## Lines, elements, bytes -/

/-- The `EB` bytes of an element, byte `t` holding bits `[8t+7 : 8t]` (20_memory R39); an element without
value has bytes without value (41_stride_generator R93). -/
def elemBytes (eb : Nat) (e : TileElem) : List (Option Byte) :=
  (List.range eb).map (fun t => e.map (fun v => v.extractLsb' (8 * t) 8))

/-- `line_to_bytes` (41_stride_generator R93). -/
def lineToBytes (eb : Nat) (line : List TileElem) : List (Option Byte) := line.flatMap (elemBytes eb)

/-- The element of a list of bytes, the first the least significant (20_memory R39); without value if one
of its bytes is (log entry 4). -/
def elemOfBytes : List (Option Byte) → TileElem
  | [] => some 0
  | none :: _ => none
  | some b :: rest =>
    Option.map (fun v : Elem => (v <<< 8) ||| b.setWidth 32) (elemOfBytes rest)

/-- `bytes_to_line`: element `e` occupies bytes `e·EB .. e·EB + EB - 1` (20_memory R38, 41_stride_generator
R93). -/
def bytesToLine (count eb : Nat) (bytes : List (Option Byte)) : List TileElem :=
  (List.range count).map (fun e => elemOfBytes ((bytes.drop (e * eb)).take eb))

/-! ## Slots -/

/-- Element `c` of a row that is a ring. -/
def ringGet (row : List TileElem) (c : Nat) : TileElem := (row[c % row.length]?).join

/-- Consecutive elements of a ring replaced, from element `c` on. -/
def ringSet (row : List TileElem) (c : Nat) : List TileElem → List TileElem
  | [] => row
  | v :: vs => ringSet (row.set (c % row.length) v) (c + 1) vs

/-- Element `(r, c)` of a buffer; an element outside it has no value. -/
def TileBuf.elem (b : TileBuf) (r c : Nat) : TileElem := ((b[r]?).bind (fun row => row[c]?)).join

/-- `read_slot(slot)`: the `AW` elements at the slot's positions (42_tile_store R100 to R103), none where the
slot is in no buffer. -/
def TileStore.readSlot (p : Params) (ts : TileStore) : Slot → Option (List TileElem)
  | .w row => ts.w.bind (fun b => b[row]?)
  | .x row col =>
    ts.x.bind (fun b => (b[row]?).map (fun r => (List.range p.aw).map (fun e => ringGet r (col + e))))
  | .y row => ts.y[row]?
  | .z row => ts.z[row]?

/-- `write_slot(slot, line)` (41_stride_generator R93; positions of 42_tile_store R100 to R103). A Z slot is written
like any other: that only `SG.ITERATE` presented by itself asks for it is log entry 33 (DESIGN CHOICE; 10_state
R20). -/
def TileStore.writeSlot (ts : TileStore) (slot : Slot) (line : List TileElem) : TileStore :=
  match slot with
  | .w row => { ts with w := ts.w.map (fun b => b.set row line) }
  | .x row col => { ts with x := ts.x.map (fun b => b.modify row (fun r => ringSet r col line)) }
  | .y row => { ts with y := ts.y.set row line }
  | .z row => { ts with z := ts.z.set row line }

/-- `WCAP`, the rows of the allocated W buffer; 0 while W is absent (10_state R19). -/
def TileStore.wCap (ts : TileStore) : Nat :=
  match ts.w with
  | some b => b.length
  | none => 0

/-- `XCAP`, the columns of the allocated X buffer; 0 while X is absent (10_state R19). -/
def TileStore.xCap (ts : TileStore) : Nat :=
  match ts.x with
  | some (row :: _) => row.length
  | _ => 0

end Sys2Proof.Machine
end

