-- ==== Sys2Proof/Machine/Strobe.lean ====
section
/-! DEFINITION. MKSTROBE, the leftover strobe (spec/44_strobe.md rules R142 to R146). -/

namespace Sys2Proof.Machine

/-- The width-specific base mask, `0x1`/`0x3`/`0xF` for 1/2/4 bytes (R143); no other width has one (R145). -/
def baseMask (width : Nat) : Option Nat :=
  match width with
  | 1 => some 0x1
  | 2 => some 0x3
  | 4 => some 0xF
  | _ => none

/-- The construction of rule R143: `count` copies of the base mask, each shifted by `width` further. -/
def orCopies (base width : Nat) : Nat → Nat
  | 0 => 0
  | t + 1 => orCopies base width t ||| (base <<< (t * width))

/-- `MKSTROBE(L, W)` (R143): the copies, cut to `LB` bits. DESIGN CHOICE: for `L >= AW`, outside R143's operand
range, the closed form `2^(L·W) - 1` and the `[LB-1:0]` slice can disagree; the model runs the construction and
cuts (log entry 38). -/
def mkStrobe (p : Params) (count width : Nat) : Option Nat :=
  (baseMask width).map (fun base => orCopies base width count % 2 ^ p.lb)

/-- MKSTROBE as an operation: it returns the strobe (R143). -/
def strobeOf (count width : Nat) (s : State) : Res Nat :=
  match mkStrobe s.par count width with
  | some m => .ok m s
  | none => .refused .noBaseMask

/-- MKSTROBE (R143, R144). -/
def execMkstrobe (count width : Nat) (s : State) : Host.Outcome State Fault Refusal :=
  unlessStopped s (finish (strobeOf count width s) .strobe)

end Sys2Proof.Machine
end

