-- ==== Sys2Proof/Machine/Flags.lean ====
section
/-! DEFINITION. The flags and conditions the scheduler computes: the checks of a configuration (spec/40
rule R79), the bookkeeping of a pass (spec/43 rule R128: `job_done`, `final_row`, `z_strb`), the pending
continuations (R118), and the latency accumulators (spec/10 rule R25). -/

namespace Sys2Proof.Machine

/-! ## cfg_valid -/

/-- The three dimension lengths of a stream are at least 1 (40_host_commands R79 d). -/
def lengthsNonzero (c : JobConfig) (str : Stream) : Bool :=
  decide (c.val (.stream str .d0Len) ≠ 0) && decide (c.val (.stream str .d1Len) ≠ 0) &&
    decide (c.val (.stream str .d2Len) ≠ 0)

/-- The four leftover fields are at most `AW - 1` (R79 c). -/
def leftoversLegal (p : Params) (v : Word) : Bool :=
  decide ((leftoverXRow v).toNat < p.aw) && decide ((leftoverXCol v).toNat < p.aw) &&
    decide ((leftoverWRow v).toNat < p.aw) && decide ((leftoverWCol v).toNat < p.aw)

/-- `X_ITER.rows`, `X_ITER.cols` and `W_ITER.cols` are at least 1 (R79 b). -/
def countsNonzero (c : JobConfig) : Bool :=
  decide (iterRows (c.val .xIter) ≠ 0) && decide (iterCols (c.val .xIter) ≠ 0) &&
    decide (iterCols (c.val .wIter) ≠ 0)

/-- The first of the checks (a) to (d) of rule R79 that fails, in that order; none when `cfg_valid()`. -/
def cfgCheck (p : Params) (c : JobConfig) : Option ConfigCheck :=
  if !c.allWritten then some .unwritten
  else if !countsNonzero c then some .zeroCount
  else if !leftoversLegal p (c.val .leftover) then some .leftoverTooLarge
  else if !(lengthsNonzero c .x && lengthsNonzero c .w && lengthsNonzero c .y && lengthsNonzero c .z) then
    some .zeroLength
  else none

/-! ## The bookkeeping of a pass -/

/-- The strobe of a last W-column tile: the leftover strobe if a W-column leftover is configured, else
`FULL` (43_scheduler R128). -/
def lastTileStrobe (p : Params) (job : Job) : Option Nat :=
  if job.wColLo ≠ 0 then mkStrobe p job.wColLo.toNat p.eb else some p.full

/-- The scheduler after `store_bookkeeping()` with the last tile's strobe at hand (43_scheduler R128). -/
def bookkept (p : Params) (job : Job) (lastStrobe : Nat) (c : Sched) : Sched :=
  if c.wColsIters + 1 = job.wCols then
    let c1 := { c with wColsIters := 0, xRowsIters := c.xRowsIters + 1, zStrb := lastStrobe }
    if c.xRowsIters + 1 = job.xRows then
      { c1 with jobDone := true, finalRow := if job.xRowLo ≠ 0 then true else c.finalRow }
    else c1
  else { c with wColsIters := c.wColsIters + 1, zStrb := p.full }

/-- `store_bookkeeping()`, once per pass at the transition into STORING (43_scheduler R128). -/
def storeBookkeeping (s : State) : Res Unit :=
  match s.job with
  | none => .refused .jobAbsent
  | some job =>
    match lastTileStrobe s.par job with
    | none => .refused .noBaseMask
    | some m => .ok () (s.setSch (bookkept s.par job m s.sch))

/-! ## Continuations and latency -/

/-- Hand the main continuation to the re-schedule primitive; forbidden while one is pending (R118, R151). -/
def scheduleMain (s : State) : Res Unit :=
  if s.mainPending then .fatal (raiseFatal (.doubleSchedule .main) s) else .ok () (s.setMainPending true)

/-- Hand over the completion continuation; forbidden while one is pending (R118, R151). -/
def scheduleCompletion (s : State) : Res Unit :=
  if s.donePending then .fatal (raiseFatal (.doubleSchedule .completion) s)
  else .ok () (s.setDonePending true)

/-- A micro-step's latency added to both accumulators (43_scheduler R118, 10_state R25). -/
def chargeLatency (l : Nat) (s : State) : State :=
  s.setSch { s.sch with latAcc := s.sch.latAcc + l, latTotal := s.sch.latTotal + l }

end Sys2Proof.Machine
end

