-- ==== Sys2Proof/Machine/StrideGenerator.lean ====
section
/-! DEFINITION. SG.CONFIGURE, SG.ITERATE, SG.ISDONE (spec/41_stride_generator.md rules R85 to R96). -/

namespace Sys2Proof.Machine

/-! ## SG.CONFIGURE -/

/-- A freshly configured descriptor: the parameters stored, every position, counter and the latency 0 (R86). -/
def configured (base totLen d0Len d0Stride d1Len d1Stride d2Len d2Stride d3Stride : Word) : StreamDesc :=
  { StreamDesc.zero with
    base := base, totLen := totLen, d0Len := d0Len, d0Stride := d0Stride, d1Len := d1Len,
    d1Stride := d1Stride, d2Len := d2Len, d2Stride := d2Stride, d3Stride := d3Stride }

/-- SG.CONFIGURE (R86, invoked only by `SCHED.ENTRY`); presented by itself it runs in every `sch.state` (DESIGN
CHOICE, log entry 37). -/
def execSgConfigure (str : Stream)
    (base totLen d0Len d0Stride d1Len d1Stride d2Len d2Stride d3Stride : Word) (s : State) :
    Host.Outcome State Fault Refusal :=
  unlessStopped s (.next (s.setDesc str
    (configured base totLen d0Len d0Stride d1Len d1Stride d2Len d2Stride d3Stride)))

/-! ## Position: advance and restart -/

/-- Dimension 2 one step further, dimension 3 on its wrap (R89, inner part). -/
def StreamDesc.advance2 (d : StreamDesc) : StreamDesc :=
  if d.d2Cnt + 1 = d.d2Len then { d with d2Pos := 0, d2Cnt := 0, d3Pos := d.d3Pos + d.d3Stride }
  else { d with d2Pos := d.d2Pos + d.d2Stride, d2Cnt := d.d2Cnt + 1 }

/-- Dimension 1 one step further, dimension 2 on its wrap (R89). -/
def StreamDesc.advance1 (d : StreamDesc) : StreamDesc :=
  if d.d1Cnt + 1 = d.d1Len then StreamDesc.advance2 { d with d1Pos := 0, d1Cnt := 0 }
  else { d with d1Pos := d.d1Pos + d.d1Stride, d1Cnt := d.d1Cnt + 1 }

/-- `advance(s)`: the 4-level carry, innermost fastest (R89). -/
def StreamDesc.advance (d : StreamDesc) : StreamDesc :=
  if d.d0Cnt + 1 = d.d0Len then StreamDesc.advance1 { d with d0Pos := 0, d0Cnt := 0 }
  else { d with d0Pos := d.d0Pos + d.d0Stride, d0Cnt := d.d0Cnt + 1 }

/-- `restart_positions(s)`: positions and dimension counters 0, `done_cnt` kept (R90). -/
def StreamDesc.restart (d : StreamDesc) : StreamDesc :=
  { d with d0Pos := 0, d1Pos := 0, d2Pos := 0, d3Pos := 0, d0Cnt := 0, d1Cnt := 0, d2Cnt := 0 }

/-- What a transaction of latency `l` does to its descriptor: advance, count, restart when the count reaches
`tot_len`, charge `l + 1` (R88, last five lines). -/
def StreamDesc.afterStep (d : StreamDesc) (l : Nat) : StreamDesc :=
  let a := { d.advance with doneCnt := d.doneCnt + 1 }
  let r := if a.doneCnt = a.totLen then a.restart else a
  { r with latCum := d.latCum + l + 1 }

/-- What a bubble does to its descriptor: one unit of latency, nothing else (R92). -/
def StreamDesc.afterBubble (d : StreamDesc) : StreamDesc := { d with latCum := d.latCum + 1 }

/-! ## SG.ISDONE -/

/-- `SG.ISDONE(s)`: `done_cnt = tot_len` (R94). -/
def isDone (str : Stream) (s : State) : Bool :=
  decide ((s.sg.desc str).doneCnt = (s.sg.desc str).totLen)

/-- SG.ISDONE (R94). -/
def execSgIsdone (str : Stream) (s : State) : Host.Outcome State Fault Refusal :=
  unlessStopped s (.next (s.setResult (.truth (isDone str s))))

/-! ## SG.ITERATE -/

/-- The end of a successful transaction of stream `str`: the position advances and `l + 1` is returned (R88). -/
def endTransaction (str : Stream) (l : Nat) (s : State) : Res Nat :=
  .ok (l + 1) (s.setDesc str (StreamDesc.afterStep (s.sg.desc str) l))

/-- The memory write of a Z step (R88; 20_memory R34, R35): the strobed bytes of the line; when the memory
reports anything but success, the strobed bytes are left without value (93 U4) and the condition is fatal. -/
def writeTransaction (str : Stream) (line : List TileElem) (strobe : Nat) (s : State) : Res Nat :=
  let addr := StreamDesc.addr (s.sg.desc str)
  let bytes := lineToBytes s.par.eb line
  match nextAnswer s with
  | (⟨.success, l⟩, s1) =>
    endTransaction str l (s1.setMem (Memory.writeBytes s1.mem addr strobe bytes))
  | (⟨.other c, _⟩, s1) =>
    .fatal (raiseFatal (.memStatus str addr (.other c))
      (s1.setMem (Memory.writeBytes s1.mem addr strobe (bytes.map (fun _ => none)))))

/-- The memory read of an X, W or Y step (R88; 20_memory R33): the line goes to the slot, the strobe is
ignored; when the memory reports anything but success nothing after the access is done. DESIGN CHOICE: the slot
may be of any kind, a Z slot among them, and is then written although 10_state R20 has `compute_z()` the only
writer of Z; the stream steps never pass one (log entry 33). -/
def readTransaction (str : Stream) (slot : Slot) (s : State) : Res Nat :=
  let addr := StreamDesc.addr (s.sg.desc str)
  match nextAnswer s with
  | (⟨.success, l⟩, s1) =>
    endTransaction str l (s1.setTs (s1.ts.writeSlot slot
      (bytesToLine s1.par.aw s1.par.eb (Memory.readBytes s1.mem addr s1.par.lb))))
  | (⟨.other c, _⟩, s1) => .fatal (raiseFatal (.memStatus str addr (.other c)) s1)

/-- `SG.ITERATE(s, slot, strobe) -> latency` (R88): a bubble without a slot (R92); with one, exactly one
transaction, written to memory by the Z stream and read from it by the others (R85). A slot on a stream
that is done has no meaning (R91). DESIGN CHOICE: a slot of any kind is taken on any stream, so X, W or Y with a Z
slot writes Z from memory (10_state R20), and Z with another slot stores it (log entry 33). -/
def iterate (str : Stream) (slot : Option Slot) (strobe : Nat) (s : State) : Res Nat :=
  match slot with
  | none => .ok 1 (s.setDesc str (StreamDesc.afterBubble (s.sg.desc str)))
  | some sl =>
    if isDone str s then .refused .streamAlreadyDone
    else
      match s.ts.readSlot s.par sl with
      | none => .refused .slotAbsent
      | some line =>
        match str with
        | .z => writeTransaction .z line strobe s
        | .x => readTransaction .x sl s
        | .w => readTransaction .w sl s
        | .y => readTransaction .y sl s

/-- SG.ITERATE (R88); presented by itself it runs in every `sch.state` (DESIGN CHOICE, log entry 37). -/
def execSgIterate (str : Stream) (slot : Option Slot) (strobe : Nat) (s : State) :
    Host.Outcome State Fault Refusal :=
  unlessStopped s (finish (iterate str slot strobe s) .latency)

end Sys2Proof.Machine
end

