-- ==== Sys2Proof/Machine/Numerics.lean ====
section
/-! DEFINITION. The numerics record `NUM` (spec/42_tile_store.md rules R105 to R107): the fused
multiply-add of IEEE 754 binary16 and binary32 with one rounding to nearest, ties to even, subnormals
kept, a NaN result free; the 8-bit format through its own pattern; any other record free. -/

namespace Sys2Proof

/-- An IEEE 754 binary interchange format: exponent and fraction widths (PRESUMED, log entry 8). -/
structure FloatFormat where
  expBits : Nat
  fracBits : Nat
  deriving DecidableEq, Repr

/-- IEEE 754 binary16 (R105). -/
def binary16 : FloatFormat := { expBits := 5, fracBits := 10 }

/-- IEEE 754 binary32 (R105). -/
def binary32 : FloatFormat := { expBits := 8, fracBits := 23 }

/-- The all-ones exponent field, of infinities and NaNs. -/
def FloatFormat.expMax (f : FloatFormat) : Nat := 2 ^ f.expBits - 1

/-- `-qmin`, where `2^qmin` is the weight of the last fraction bit of a subnormal. -/
def FloatFormat.subShift (f : FloatFormat) : Nat := 2 ^ (f.expBits - 1) - 2 + f.fracBits

/-- The sign bit of a pattern. -/
def FloatFormat.negative (f : FloatFormat) (v : Nat) : Bool := v.testBit (f.expBits + f.fracBits)

/-- The exponent field of a pattern. -/
def FloatFormat.expField (f : FloatFormat) (v : Nat) : Nat := v / 2 ^ f.fracBits % 2 ^ f.expBits

/-- The fraction field of a pattern. -/
def FloatFormat.fracField (f : FloatFormat) (v : Nat) : Nat := v % 2 ^ f.fracBits

/-- A NaN pattern. -/
def FloatFormat.isNan (f : FloatFormat) (v : Nat) : Bool :=
  decide (f.expField v = f.expMax) && decide (f.fracField v ≠ 0)

/-- An infinity pattern. -/
def FloatFormat.isInf (f : FloatFormat) (v : Nat) : Bool :=
  decide (f.expField v = f.expMax) && decide (f.fracField v = 0)

/-- A zero pattern. -/
def FloatFormat.isZero (f : FloatFormat) (v : Nat) : Bool :=
  decide (f.expField v = 0) && decide (f.fracField v = 0)

/-- The significand of a finite pattern, the hidden bit included. -/
def FloatFormat.significand (f : FloatFormat) (v : Nat) : Nat :=
  if f.expField v = 0 then f.fracField v else 2 ^ f.fracBits + f.fracField v

/-- The exponent of a finite pattern above `qmin`: its value is `± significand · 2^(qmin + scale)`. -/
def FloatFormat.scale (f : FloatFormat) (v : Nat) : Nat := f.expField v - 1

/-- A pattern with its sign bit set as asked. -/
def FloatFormat.withSign (f : FloatFormat) (neg : Bool) (magnitude : Nat) : Nat :=
  if neg then 2 ^ (f.expBits + f.fracBits) + magnitude else magnitude

/-- The infinity of a sign. -/
def FloatFormat.infinity (f : FloatFormat) (neg : Bool) : Nat :=
  f.withSign neg (f.expMax * 2 ^ f.fracBits)

/-- A NaN pattern made of an arbitrary number: sign and fraction are its bits, the exponent is all ones, and
a fraction of zero, which would be an infinity, becomes 1. Every NaN pattern is of this form. -/
def FloatFormat.nanOf (f : FloatFormat) (v : Nat) : Nat :=
  f.withSign (f.negative v)
    (f.expMax * 2 ^ f.fracBits + (if f.fracField v = 0 then 1 else f.fracField v))

/-- `m` divided by `2^k`, rounded to nearest, ties to even. -/
def roundShift (m k : Nat) : Nat :=
  if m % 2 ^ k * 2 > 2 ^ k ∨ (m % 2 ^ k * 2 = 2 ^ k ∧ m / 2 ^ k % 2 = 1) then m / 2 ^ k + 1 else m / 2 ^ k

/-- The exact nonzero value `m · 2^(2·qmin)` rounded into the format, without sign: the quantum is the
weight of the last of `fracBits + 1` bits, and never below a subnormal's; an exponent past the largest
gives infinity. -/
def FloatFormat.roundMagnitude (f : FloatFormat) (m : Nat) : Nat :=
  let k := max f.subShift (Nat.log2 m - f.fracBits)
  min ((k - f.subShift) * 2 ^ f.fracBits + roundShift m k) (f.expMax * 2 ^ f.fracBits)

/-- The finite fused multiply-add: the exact sum of product and addend in units of `2^(2·qmin)`, rounded
once. An exact zero sum is `+0` unless both addends are negative (round to nearest). -/
def FloatFormat.fmaFinite (f : FloatFormat) (a b c : Nat) : Nat :=
  let pNeg := f.negative a != f.negative b
  let cNeg := f.negative c
  let pMag := f.significand a * f.significand b * 2 ^ (f.scale a + f.scale b)
  let cMag := f.significand c * 2 ^ (f.scale c + f.subShift)
  if pNeg = cNeg then
    (if pMag + cMag = 0 then f.withSign cNeg 0 else f.withSign cNeg (f.roundMagnitude (pMag + cMag)))
  else if cMag < pMag then f.withSign pNeg (f.roundMagnitude (pMag - cMag))
  else if pMag < cMag then f.withSign cNeg (f.roundMagnitude (cMag - pMag))
  else f.withSign false 0

/-- `a × b + c` with a single rounding (R105); `nan` stands for the pattern of a NaN result. -/
def FloatFormat.fma (f : FloatFormat) (nan a b c : Nat) : Nat :=
  if f.isNan a || f.isNan b || f.isNan c then f.nanOf nan
  else if (f.isInf a && f.isZero b) || (f.isZero a && f.isInf b) then f.nanOf nan
  else if f.isInf a || f.isInf b then
    (if f.isInf c && f.negative c != (f.negative a != f.negative b) then f.nanOf nan
    else f.infinity (f.negative a != f.negative b))
  else if f.isInf c then f.infinity (f.negative c)
  else f.fmaFinite a b c

/-- The fused multiply-add of a format on element patterns; a NaN result is a free NaN pattern. -/
def ieeeFma (f : FloatFormat) (eb : Nat) (a b c : Elem) : Elem :=
  BitVec.ofNat 32 (f.fma (Config.nanPattern eb a b c).toNat a.toNat b.toNat c.toNat)

/-- `EB = 1`: the running sum goes through the narrow format's bit pattern at every step (R107). -/
def narrowFma (a b c : Elem) : Elem :=
  (Config.narrow (Config.fmaWide (Config.widen (a.setWidth 8)) (Config.widen (b.setWidth 8))
    (Config.widen (c.setWidth 8)))).setWidth 32

/-- An element pattern has `8·EB` bits (R8). -/
def elemMask (eb : Nat) (v : Elem) : Elem := BitVec.ofNat 32 (v.toNat % 2 ^ (8 * eb))

/-- `NUM.fma` (R105): total on element patterns. -/
def Params.fma (p : Params) (a b c : Elem) : Elem :=
  match p.num with
  | .standard =>
    if p.eb = 2 then ieeeFma binary16 2 a b c
    else if p.eb = 4 then ieeeFma binary32 4 a b c
    else narrowFma a b c
  | .other tag => elemMask p.eb (Config.otherFma tag p.eb a b c)

end Sys2Proof
end

