-- ==== Sys2Proof/Machine/TileUnit.lean ====
section
/-! DEFINITION. TS.ALLOC, TS.NEXTW, TS.NEXTX, TS.NEXTY, TS.NEXTZ, TS.COMPUTEZ, TS.FREE
(spec/42_tile_store.md rules R97 to R114). -/

namespace Sys2Proof.Machine

/-! ## TS.ALLOC -/

/-- `TS.ALLOC(n, x_row_lo, x_col_lo, w_row_lo, w_col_lo)` (R98) with the geometry of rule R99: W is
`n + pad(w_row_lo)` rows, X is `n + pad(x_col_lo) + 2·H·(PD+1)` columns, no element of either has a value,
the five cursors are 0. Y, Z, `x_offs`, `y_offs` stay; `x_row_lo` and `w_col_lo` size nothing. DESIGN CHOICE: with a
leftover above `AW` the padding is 0, and with `n = 0`, where R104 says `n >= 1`, the sizes follow the same sums
(log entry 36). -/
def TileStore.alloc (p : Params) (ts : TileStore) (n : Word) (_xRowLo xColLo wRowLo _wColLo : BitVec 8) :
    TileStore :=
  { ts with
    w := some (TileBuf.unloaded (n.toNat + p.pad wRowLo.toNat) p.aw)
    x := some (TileBuf.unloaded p.aw (n.toNat + p.pad xColLo.toNat + p.xExtra))
    wCnt := 0, xI := 0, xC := 0, yCnt := 0, zCnt := 0, allocated := true }

/-- TS.ALLOC (R98, invoked "when `ts.allocated = 0`"). DESIGN CHOICE: presented by itself it runs the pseudocode
whatever `ts.allocated` is (log entry 35). -/
def execTsAlloc (n : Word) (xRowLo xColLo wRowLo wColLo : BitVec 8) (s : State) :
    Host.Outcome State Fault Refusal :=
  unlessStopped s (.next (s.setTs (s.ts.alloc s.par n xRowLo xColLo wRowLo wColLo)))

/-! ## The next slots -/

/-- `TS.NEXTW() -> slot`: the W row at the cursor, which wraps at `WCAP` (R100). DESIGN CHOICE: where `WCAP` is 0
there is no next slot modulo 0, and it is refused as `tilesAbsent`: W absent (log entry 17), or W present with no
row, which `TS.ALLOC` leaves for `n = 0` without padding (log entry 36). -/
def nextW (s : State) : Res Slot :=
  if s.ts.wCap = 0 then .refused .tilesAbsent
  else .ok (.w s.ts.wCnt) (s.setTs { s.ts with wCnt := (s.ts.wCnt + 1) % s.ts.wCap })

/-- `TS.NEXTX() -> slot`: row `x_i`, `AW` columns from `x_c` on; the row cursor runs first, then the column
cursor moves by `AW` modulo `XCAP` (R101). -/
def nextX (s : State) : Res Slot :=
  if s.ts.xCap = 0 then .refused .tilesAbsent
  else
    .ok (.x s.ts.xI s.ts.xC)
      (if s.ts.xI + 1 = s.par.aw then
        s.setTs { s.ts with xI := 0, xC := (s.ts.xC + s.par.aw) % s.ts.xCap }
      else s.setTs { s.ts with xI := s.ts.xI + 1 })

/-- `TS.NEXTY() -> slot`: row `y_offs + y_cnt`; the cursor wraps at `AW` (R102). -/
def nextY (s : State) : Res Slot :=
  .ok (.y (s.ts.yOffs + s.ts.yCnt)) (s.setTs { s.ts with yCnt := (s.ts.yCnt + 1) % s.par.aw })

/-- `TS.NEXTZ() -> slot`: row `z_cnt`; the cursor wraps at `AW` (R103). -/
def nextZ (s : State) : Res Slot :=
  .ok (.z s.ts.zCnt) (s.setTs { s.ts with zCnt := (s.ts.zCnt + 1) % s.par.aw })

/-- TS.NEXTW (R100); presented by itself it runs in every `sch.state` (DESIGN CHOICE, log entry 37). -/
def execTsNextw (s : State) : Host.Outcome State Fault Refusal :=
  unlessStopped s (finish (nextW s) .slot)

/-- TS.NEXTX (R101); presented by itself it runs in every `sch.state` (DESIGN CHOICE, log entry 37). -/
def execTsNextx (s : State) : Host.Outcome State Fault Refusal :=
  unlessStopped s (finish (nextX s) .slot)

/-- TS.NEXTY (R102); presented by itself it runs in every `sch.state` (DESIGN CHOICE, log entry 37). -/
def execTsNexty (s : State) : Host.Outcome State Fault Refusal :=
  unlessStopped s (finish (nextY s) .slot)

/-- TS.NEXTZ (R103); presented by itself it runs in every `sch.state` (DESIGN CHOICE, log entry 37). -/
def execTsNextz (s : State) : Host.Outcome State Fault Refusal :=
  unlessStopped s (finish (nextZ s) .slot)

/-! ## TS.COMPUTEZ -/

/-- One fused step on elements that may have no value: "no value" propagates (R108). -/
def fmaElem (p : Params) (a b c : TileElem) : TileElem :=
  match a, b, c with
  | some a, some b, some c => some (p.fma a b c)
  | _, _, _ => none

/-- The accumulator after the first `k` steps of the sum for `(i, j)`: it starts as the Y element and takes
one fused step per index in ascending order (R104, R106), `x_row_offset(k) = (x_offs + k) mod XCAP`. -/
def kernelAcc (p : Params) (ts : TileStore) (x w : TileBuf) (i j : Nat) : Nat → TileElem
  | 0 => ts.y.elem (i + ts.yOffs) j
  | k + 1 =>
    fmaElem p (x.elem i ((ts.xOffs + k) % ts.xCap)) (w.elem k j) (kernelAcc p ts x w i j k)

/-- The Z tile: `z[i][j]` for every `i, j < AW`, with `n` terms each (R104). -/
def kernelTile (p : Params) (ts : TileStore) (x w : TileBuf) (n : Nat) : TileBuf :=
  (List.range p.aw).map (fun i => (List.range p.aw).map (fun j => kernelAcc p ts x w i j n))

/-- `TS.COMPUTEZ()` (R104): the kernel with `n = job.n`, then `x_offs` advances by
`XROW = job.n + job.xpad` modulo `XCAP` and `y_offs` toggles between 0 and `AW`. -/
def computeZ (s : State) : Res Unit :=
  match s.job, s.ts.x, s.ts.w with
  | some job, some x, some w =>
    .ok () (s.setTs { s.ts with
      z := kernelTile s.par s.ts x w job.n.toNat
      xOffs := (s.ts.xOffs + (job.n.toNat + job.xpad)) % s.ts.xCap
      yOffs := if s.ts.yOffs = 0 then s.par.aw else 0 })
  | none, _, _ => .refused .jobAbsent
  | some _, _, _ => .refused .tilesAbsent

/-- TS.COMPUTEZ (R104, "invoked only by the scheduler at the end of the last COMPUTING hypercycle"). DESIGN CHOICE:
presented by itself it runs the pseudocode in every `sch.state` in which the job copy, W and X exist; an element
of W beyond the rows allocated has no value (log entry 37). -/
def execTsComputez (s : State) : Host.Outcome State Fault Refusal :=
  unlessStopped s (finishUnit (computeZ s))

/-! ## TS.FREE -/

/-- `TS.FREE()` (R110): W and X absent, Y and Z zero, both offsets and the five cursors 0. -/
def freeTiles (s : State) : State := s.setTs (.free s.par)

/-- TS.FREE (R110, invoked "with `ts.allocated = 1`"). DESIGN CHOICE: presented by itself it runs the pseudocode
whatever `ts.allocated` is (log entry 35). -/
def execTsFree (s : State) : Host.Outcome State Fault Refusal :=
  unlessStopped s (.next (freeTiles s))

end Sys2Proof.Machine
end

