-- ==== Sys2Proof/Machine/HostCommands.lean ====
section
/-! DEFINITION. The host commands CFGWR, TRIGGER, IRQCLR and the entry action SCHED.ENTRY
(spec/40_host_commands.md rules R76 to R84). -/

namespace Sys2Proof.Machine

/-! ## CFGWR -/

/-- `CFGWR.<REG>` (R77): in IDLE the register takes the value, any 32 bits; otherwise
`refuse(CFG_WHILE_BUSY)` with the offset (60_exceptions R147). Without effect while `fault` is set (R76). -/
def cfgWrite (r : CfgReg) (v : Word) (s : State) : Host.Outcome State Fault Refusal :=
  unlessStopped s
    (if s.sch.state = stIdle then .next (s.setCfg (s.cfg.setReg r (some v)))
    else .next (raiseFatal (.cfgWhileBusy (cfgOffset r)) s))

/-- CFGWR.X_BASE (R77). -/
def execCfgwrXBase (wdata : Word) (s : State) : Host.Outcome State Fault Refusal :=
  cfgWrite (.stream .x .base) wdata s

/-- CFGWR.W_BASE (R77). -/
def execCfgwrWBase (wdata : Word) (s : State) : Host.Outcome State Fault Refusal :=
  cfgWrite (.stream .w .base) wdata s

/-- CFGWR.Y_BASE (R77). -/
def execCfgwrYBase (wdata : Word) (s : State) : Host.Outcome State Fault Refusal :=
  cfgWrite (.stream .y .base) wdata s

/-- CFGWR.Z_BASE (R77). -/
def execCfgwrZBase (wdata : Word) (s : State) : Host.Outcome State Fault Refusal :=
  cfgWrite (.stream .z .base) wdata s

/-- CFGWR.X_TOT_LEN (R77). -/
def execCfgwrXTotLen (wdata : Word) (s : State) : Host.Outcome State Fault Refusal :=
  cfgWrite (.stream .x .totLen) wdata s

/-- CFGWR.W_TOT_LEN (R77). -/
def execCfgwrWTotLen (wdata : Word) (s : State) : Host.Outcome State Fault Refusal :=
  cfgWrite (.stream .w .totLen) wdata s

/-- CFGWR.Y_TOT_LEN (R77). -/
def execCfgwrYTotLen (wdata : Word) (s : State) : Host.Outcome State Fault Refusal :=
  cfgWrite (.stream .y .totLen) wdata s

/-- CFGWR.Z_TOT_LEN (R77). -/
def execCfgwrZTotLen (wdata : Word) (s : State) : Host.Outcome State Fault Refusal :=
  cfgWrite (.stream .z .totLen) wdata s

/-- CFGWR.W_ITER (R62, R77). -/
def execCfgwrWIter (rows cols : BitVec 16) (s : State) : Host.Outcome State Fault Refusal :=
  cfgWrite .wIter (packIter rows cols) s

/-- CFGWR.X_ITER (R62, R77). -/
def execCfgwrXIter (rows cols : BitVec 16) (s : State) : Host.Outcome State Fault Refusal :=
  cfgWrite .xIter (packIter rows cols) s

/-- CFGWR.LEFTOVER (R63, R77). -/
def execCfgwrLeftover (xRowLo xColLo wRowLo wColLo : BitVec 8) (s : State) :
    Host.Outcome State Fault Refusal :=
  cfgWrite .leftover (packLeftover xRowLo xColLo wRowLo wColLo) s

/-- CFGWR.X_D0_LEN (R77). -/
def execCfgwrXD0Len (wdata : Word) (s : State) : Host.Outcome State Fault Refusal :=
  cfgWrite (.stream .x .d0Len) wdata s

/-- CFGWR.X_D0_STRIDE (R77). -/
def execCfgwrXD0Stride (wdata : Word) (s : State) : Host.Outcome State Fault Refusal :=
  cfgWrite (.stream .x .d0Stride) wdata s

/-- CFGWR.X_D1_LEN (R77). -/
def execCfgwrXD1Len (wdata : Word) (s : State) : Host.Outcome State Fault Refusal :=
  cfgWrite (.stream .x .d1Len) wdata s

/-- CFGWR.X_D1_STRIDE (R77). -/
def execCfgwrXD1Stride (wdata : Word) (s : State) : Host.Outcome State Fault Refusal :=
  cfgWrite (.stream .x .d1Stride) wdata s

/-- CFGWR.X_D2_LEN (R77). -/
def execCfgwrXD2Len (wdata : Word) (s : State) : Host.Outcome State Fault Refusal :=
  cfgWrite (.stream .x .d2Len) wdata s

/-- CFGWR.X_D2_STRIDE (R77). -/
def execCfgwrXD2Stride (wdata : Word) (s : State) : Host.Outcome State Fault Refusal :=
  cfgWrite (.stream .x .d2Stride) wdata s

/-- CFGWR.X_D3_STRIDE (R77). -/
def execCfgwrXD3Stride (wdata : Word) (s : State) : Host.Outcome State Fault Refusal :=
  cfgWrite (.stream .x .d3Stride) wdata s

/-- CFGWR.W_D0_LEN (R77). -/
def execCfgwrWD0Len (wdata : Word) (s : State) : Host.Outcome State Fault Refusal :=
  cfgWrite (.stream .w .d0Len) wdata s

/-- CFGWR.W_D0_STRIDE (R77). -/
def execCfgwrWD0Stride (wdata : Word) (s : State) : Host.Outcome State Fault Refusal :=
  cfgWrite (.stream .w .d0Stride) wdata s

/-- CFGWR.W_D1_LEN (R77). -/
def execCfgwrWD1Len (wdata : Word) (s : State) : Host.Outcome State Fault Refusal :=
  cfgWrite (.stream .w .d1Len) wdata s

/-- CFGWR.W_D1_STRIDE (R77). -/
def execCfgwrWD1Stride (wdata : Word) (s : State) : Host.Outcome State Fault Refusal :=
  cfgWrite (.stream .w .d1Stride) wdata s

/-- CFGWR.W_D2_LEN (R77). -/
def execCfgwrWD2Len (wdata : Word) (s : State) : Host.Outcome State Fault Refusal :=
  cfgWrite (.stream .w .d2Len) wdata s

/-- CFGWR.W_D2_STRIDE (R77). -/
def execCfgwrWD2Stride (wdata : Word) (s : State) : Host.Outcome State Fault Refusal :=
  cfgWrite (.stream .w .d2Stride) wdata s

/-- CFGWR.W_D3_STRIDE (R77). -/
def execCfgwrWD3Stride (wdata : Word) (s : State) : Host.Outcome State Fault Refusal :=
  cfgWrite (.stream .w .d3Stride) wdata s

/-- CFGWR.Y_D0_LEN (R77). -/
def execCfgwrYD0Len (wdata : Word) (s : State) : Host.Outcome State Fault Refusal :=
  cfgWrite (.stream .y .d0Len) wdata s

/-- CFGWR.Y_D0_STRIDE (R77). -/
def execCfgwrYD0Stride (wdata : Word) (s : State) : Host.Outcome State Fault Refusal :=
  cfgWrite (.stream .y .d0Stride) wdata s

/-- CFGWR.Y_D1_LEN (R77). -/
def execCfgwrYD1Len (wdata : Word) (s : State) : Host.Outcome State Fault Refusal :=
  cfgWrite (.stream .y .d1Len) wdata s

/-- CFGWR.Y_D1_STRIDE (R77). -/
def execCfgwrYD1Stride (wdata : Word) (s : State) : Host.Outcome State Fault Refusal :=
  cfgWrite (.stream .y .d1Stride) wdata s

/-- CFGWR.Y_D2_LEN (R77). -/
def execCfgwrYD2Len (wdata : Word) (s : State) : Host.Outcome State Fault Refusal :=
  cfgWrite (.stream .y .d2Len) wdata s

/-- CFGWR.Y_D2_STRIDE (R77). -/
def execCfgwrYD2Stride (wdata : Word) (s : State) : Host.Outcome State Fault Refusal :=
  cfgWrite (.stream .y .d2Stride) wdata s

/-- CFGWR.Y_D3_STRIDE (R77). -/
def execCfgwrYD3Stride (wdata : Word) (s : State) : Host.Outcome State Fault Refusal :=
  cfgWrite (.stream .y .d3Stride) wdata s

/-- CFGWR.Z_D0_LEN (R77). -/
def execCfgwrZD0Len (wdata : Word) (s : State) : Host.Outcome State Fault Refusal :=
  cfgWrite (.stream .z .d0Len) wdata s

/-- CFGWR.Z_D0_STRIDE (R77). -/
def execCfgwrZD0Stride (wdata : Word) (s : State) : Host.Outcome State Fault Refusal :=
  cfgWrite (.stream .z .d0Stride) wdata s

/-- CFGWR.Z_D1_LEN (R77). -/
def execCfgwrZD1Len (wdata : Word) (s : State) : Host.Outcome State Fault Refusal :=
  cfgWrite (.stream .z .d1Len) wdata s

/-- CFGWR.Z_D1_STRIDE (R77). -/
def execCfgwrZD1Stride (wdata : Word) (s : State) : Host.Outcome State Fault Refusal :=
  cfgWrite (.stream .z .d1Stride) wdata s

/-- CFGWR.Z_D2_LEN (R77). -/
def execCfgwrZD2Len (wdata : Word) (s : State) : Host.Outcome State Fault Refusal :=
  cfgWrite (.stream .z .d2Len) wdata s

/-- CFGWR.Z_D2_STRIDE (R77). -/
def execCfgwrZD2Stride (wdata : Word) (s : State) : Host.Outcome State Fault Refusal :=
  cfgWrite (.stream .z .d2Stride) wdata s

/-- CFGWR.Z_D3_STRIDE (R77). -/
def execCfgwrZD3Stride (wdata : Word) (s : State) : Host.Outcome State Fault Refusal :=
  cfgWrite (.stream .z .d3Stride) wdata s

/-! ## SCHED.ENTRY -/

/-- The contraction dimension, `(x_cols - 1)·AW + (x_col_lo = 0 ? AW : x_col_lo)` (R81). -/
def contractionDim (p : Params) (xCols xColLo : Nat) : Nat :=
  (xCols - 1) * p.aw + (if xColLo = 0 then p.aw else xColLo)

/-- The job copy latched from JobConfig (R80, first seven lines). -/
def latchedJob (p : Params) (c : JobConfig) : Job :=
  let xIter := c.val .xIter
  let wIter := c.val .wIter
  let lo := c.val .leftover
  let n := BitVec.ofNat 32 (contractionDim p (iterCols xIter).toNat (leftoverXCol lo).toNat)
  { wCols := iterCols wIter, wRows := iterRows wIter, xCols := iterCols xIter, xRows := iterRows xIter,
    xRowLo := leftoverXRow lo, xColLo := leftoverXCol lo, wRowLo := leftoverWRow lo,
    wColLo := leftoverWCol lo, n := n, nh := ceilDivide n.toNat p.aw,
    wpad := p.pad (leftoverWRow lo).toNat, xpad := p.pad (leftoverXCol lo).toNat }

/-- `SG.CONFIGURE` of a stream with its nine registers (R80, 41_stride_generator R86). -/
def configuredFrom (c : JobConfig) (str : Stream) : StreamDesc :=
  configured (c.val (.stream str .base)) (c.val (.stream str .totLen))
    (c.val (.stream str .d0Len)) (c.val (.stream str .d0Stride))
    (c.val (.stream str .d1Len)) (c.val (.stream str .d1Stride))
    (c.val (.stream str .d2Len)) (c.val (.stream str .d2Stride)) (c.val (.stream str .d3Stride))

/-- The scheduler at the start of a job: every scheduling counter and flag 0, `z_strb` full, STARTING (R80). -/
def startedSched (p : Params) : Sched := { Sched.idle p with state := stStarting }

/-- What the entry action leaves (R80): job copy, four configured streams, allocated tile store, counters 0,
STARTING, the main continuation pending. -/
def entered (s : State) : State :=
  let job := latchedJob s.par s.cfg
  let s1 := s.setJob (some job)
  let s2 := s1.setSg
    ⟨configuredFrom s.cfg .x, configuredFrom s.cfg .w, configuredFrom s.cfg .y, configuredFrom s.cfg .z⟩
  let s3 := s2.setTs (s.ts.alloc s.par job.n job.xRowLo job.xColLo job.wRowLo job.wColLo)
  (s3.setSch (startedSched s.par)).setMainPending true

/-- `SCHED.ENTRY` (R80), which only a `TRIGGER` invokes: in IDLE, with a valid configuration. DESIGN CHOICE:
presented by itself it does not test `sch.state` or `mainPending`, so while a job is active it latches `job` anew
(10_state R17) and starts that job (log entry 35); without a valid configuration it is refused (log entry 17). -/
def entry (s : State) : Res Unit :=
  match cfgCheck s.par s.cfg with
  | none => .ok () (entered s)
  | some _ => .refused .configNotValid

/-- SCHED.ENTRY (R80); presented by itself it runs in every `sch.state`, the model's choice (DESIGN CHOICE, log
entry 35). -/
def execSchedEntry (s : State) : Host.Outcome State Fault Refusal :=
  unlessStopped s (finishUnit (entry s))

/-! ## TRIGGER and IRQCLR -/

/-- `TRIGGER` (R78): the busy test comes before the configuration test (60_exceptions R157). -/
def trigger (s : State) : Res Unit :=
  if s.sch.state ≠ stIdle then .fatal (raiseFatal (.triggerWhileBusy s.sch.state) s)
  else
    match cfgCheck s.par s.cfg with
    | some check => .fatal (raiseFatal (.badConfig check) s)
    | none => entry s

/-- TRIGGER (R65, R78): the written value is ignored. -/
def execTrigger (_ignored : Word) (s : State) : Host.Outcome State Fault Refusal :=
  unlessStopped s (finishUnit (trigger s))

/-- IRQCLR (R65, R83): `irq <- 0`, legal in every state; the written value is ignored. -/
def execIrqclr (_ignored : Word) (s : State) : Host.Outcome State Fault Refusal :=
  unlessStopped s (.next (s.setIrq false))

end Sys2Proof.Machine
end

