-- ==== Sys2Proof/Machine/StreamSteps.lean ====
section
/-! DEFINITION. STEP.NONE, STEP.W, STEP.X, STEP.Y, STEP.Z and the selector dispatch
(spec/43_scheduler.md rules R120, R133 to R139). -/

namespace Sys2Proof.Machine

/-- `SG.ITERATE` of a stream with the slot a next-slot operation hands out. -/
def iterateNext (str : Stream) (strobe : Nat) (next : State → Res Slot) (s : State) : Res Nat :=
  (next s).bind (fun sl s1 => iterate str (some sl) strobe s1)

/-- A stream step: a stream that is done gets a null slot, a bubble, and its tile-store cursor does not
move (R133). -/
def gated (str : Stream) (strobe : Nat) (next : State → Res Slot) (s : State) : Res Nat :=
  if isDone str s then iterate str none strobe s else iterateNext str strobe next s

/-- `STEP.NONE`: latency 1, nothing else (R135). -/
def stepNoneLatency (s : State) : Res Nat := .ok 1 s

/-- `STEP.W` (R136). -/
def stepWLatency (s : State) : Res Nat := gated .w s.par.full nextW s

/-- `STEP.X` (R137). -/
def stepXLatency (s : State) : Res Nat := gated .x s.par.full nextX s

/-- `STEP.Y` (R138). -/
def stepYLatency (s : State) : Res Nat := gated .y s.par.full nextY s

/-- `STEP.Z`, under the strobe `sch.z_strb` (R139). -/
def stepZLatency (s : State) : Res Nat := gated .z s.sch.zStrb nextZ s

/-- `do_step(sel) -> latency` (R120): any other code is `BAD_SELECTOR` (60_exceptions R149). -/
def doStep (sel : BitVec 3) (s : State) : Res Nat :=
  if sel = selNone then stepNoneLatency s
  else if sel = selW then stepWLatency s
  else if sel = selX then stepXLatency s
  else if sel = selY then stepYLatency s
  else if sel = selZ then stepZLatency s
  else .fatal (raiseFatal (.badSelector sel) s)

/-- STEP.NONE (R135); presented by itself it runs in every `sch.state` (DESIGN CHOICE, log entry 37). -/
def execStepNone (s : State) : Host.Outcome State Fault Refusal :=
  unlessStopped s (finish (stepNoneLatency s) .latency)

/-- STEP.W (R136); presented by itself it runs in every `sch.state` (DESIGN CHOICE, log entry 37). -/
def execStepW (s : State) : Host.Outcome State Fault Refusal :=
  unlessStopped s (finish (stepWLatency s) .latency)

/-- STEP.X (R137); presented by itself it runs in every `sch.state` (DESIGN CHOICE, log entry 37). -/
def execStepX (s : State) : Host.Outcome State Fault Refusal :=
  unlessStopped s (finish (stepXLatency s) .latency)

/-- STEP.Y (R138); presented by itself it runs in every `sch.state` (DESIGN CHOICE, log entry 37). -/
def execStepY (s : State) : Host.Outcome State Fault Refusal :=
  unlessStopped s (finish (stepYLatency s) .latency)

/-- STEP.Z (R139); presented by itself it runs in every `sch.state` (DESIGN CHOICE, log entry 37). -/
def execStepZ (s : State) : Host.Outcome State Fault Refusal :=
  unlessStopped s (finish (stepZLatency s) .latency)

end Sys2Proof.Machine
end

