-- ==== Sys2Proof/Machine/Scheduler.lean ====
section
/-! DEFINITION. FSM.IDLE, FSM.STARTING, FSM.COMPUTING, FSM.STORING, FSM.FINISHED, SCHED.INVOKE and
SCHED.COMPLETE (spec/43_scheduler.md rules R115 to R132). -/

namespace Sys2Proof.Machine

/-! ## The selector of a subcycle (R123) -/

/-- `payload(COMPUTING, hyper, cyc)`: an X-load on the XLOAD_CYCLES of the first hypercycle (R123). -/
def payloadComputing (p : Params) (hyper : Word) (cyc : Nat) : BitVec 3 :=
  if hyper = 0 ∧ p.xload.contains cyc = true then selX else selNone

/-- `payload(STORING, hyper, cyc)`: Z-store on cycle 0, Y-reload on cycle 1, X-reload on the penultimate
cycle, in this priority (R123). -/
def payloadStoring (p : Params) (cyc : Nat) : BitVec 3 :=
  if cyc = 0 then selZ
  else if cyc = 1 then selY
  else if cyc + 2 = p.ncyc then selX
  else selNone

/-- `select`: W on subcycle 0, the cycle's payload on subcycles `1..NPAY`, else a bubble (R123). -/
def select (p : Params) (payload : BitVec 3) (sub : Nat) : BitVec 3 :=
  if sub = 0 then selW
  else if sub ≤ p.npay then payload
  else selNone

/-! ## Position (R125) -/

/-- `next_position()`: subcycle, then cycle, then what the phase does at the end of its hypercycle (R125). -/
def nextPosition (endOfHypercycle : State → Res Unit) (s : State) : Res Unit :=
  if s.sch.sub + 1 = s.par.nsub then
    (if s.sch.cyc + 1 = s.par.ncyc then endOfHypercycle (s.setSch { s.sch with sub := 0, cyc := 0 })
    else .ok () (s.setSch { s.sch with sub := 0, cyc := s.sch.cyc + 1 }))
  else .ok () (s.setSch { s.sch with sub := s.sch.sub + 1 })

/-- The transition into STORING (R126). -/
def enterStoring (s : State) : State := s.setSch { s.sch with state := stStoring, hyper := 0 }

/-- End of a COMPUTING hypercycle (R126): after the last one, `TS.COMPUTEZ`, the bookkeeping, STORING. -/
def endComputing (s : State) : Res Unit :=
  match s.job with
  | none => .refused .jobAbsent
  | some job =>
    if s.sch.hyper.toNat + 1 = job.nh then
      (computeZ s).bind (fun _ s1 => (storeBookkeeping s1).bind (fun _ s2 => .ok () (enterStoring s2)))
    else .ok () (s.setSch { s.sch with hyper := s.sch.hyper + 1 })

/-- End of the STORING hypercycle (R130). -/
def endStoring (s : State) : Res Unit :=
  if s.sch.jobDone then .ok () (s.setSch { s.sch with state := stFinished })
  else .ok () (s.setSch { s.sch with state := stComputing, hyper := 0 })

/-! ## The micro-steps -/

/-- The preload count one further; after the last preload step, COMPUTING from its first position (R121). -/
def afterPreload (p : Params) (c : Sched) : Sched :=
  if c.pre + 1 = p.npre then
    { c with pre := c.pre + 1, state := stComputing, hyper := 0, cyc := 0, sub := 0 }
  else { c with pre := c.pre + 1 }

/-- One micro-step of STARTING: `AW` Y-fills, then `2·AW` X-fills (R121). -/
def microStarting (s : State) : Res Nat :=
  (doStep (if s.sch.pre < s.par.npreY then selY else selX) s).bind
    (fun lat s1 => .ok lat (s1.setSch (afterPreload s1.par s1.sch)))

/-- One micro-step of a phase made of hypercycles: the stream step, then the next position (R124, R127). -/
def microPhase (sel : BitVec 3) (endOfHypercycle : State → Res Unit) (s : State) : Res Nat :=
  (doStep sel s).bind
    (fun lat s1 => (nextPosition endOfHypercycle s1).bind (fun _ s2 => .ok lat s2))

/-- One micro-step of COMPUTING (R124). -/
def microComputing (s : State) : Res Nat :=
  microPhase (select s.par (payloadComputing s.par s.sch.hyper s.sch.cyc) s.sch.sub) endComputing s

/-- One micro-step of STORING (R127). -/
def microStoring (s : State) : Res Nat :=
  microPhase (select s.par (payloadStoring s.par s.sch.cyc) s.sch.sub) endStoring s

/-- `micro_step()`: the dispatch on `sch.state`; IDLE, FINISHED and the codes 5 to 7 have no micro-step and
are `BAD_STATE` (R119, 60_exceptions R148). -/
def microStep (s : State) : Res Nat :=
  if s.sch.state = stStarting then microStarting s
  else if s.sch.state = stComputing then microComputing s
  else if s.sch.state = stStoring then microStoring s
  else .fatal (raiseFatal (.badState s.sch.state) s)

/-! ## Invocation and completion -/

/-- The start of an invocation: the continuation is no longer pending, `lat_acc` is 0 (R118). -/
def beginInvocation (s : State) : State :=
  (s.setMainPending false).setSch { s.sch with latAcc := 0 }

/-- The end of an invocation: exactly one continuation is scheduled (R118, R131). -/
def scheduleNext (s : State) : Res Unit :=
  if s.sch.state = stFinished then scheduleCompletion s else scheduleMain s

/-- `SCHED.INVOKE` (R118). Every micro-step returns at least 1, so the loop of the rule runs exactly one. -/
def invoke (s : State) : Res Unit :=
  (microStep (beginInvocation s)).bind (fun lat s1 => scheduleNext (chargeLatency lat s1))

/-- The completion continuation (R132): tile store freed, `irq` high, JobConfig and the job copy without
value, IDLE. -/
def complete (s : State) : State :=
  let s1 := freeTiles (s.setDonePending false)
  (((s1.setIrq true).setCfg .unwritten).setJob none).setSch { s1.sch with state := stIdle }

/-- The completion continuation where it is enabled, `done_pending = 1`; where it is not, it does not run and
nothing changes (R132; log entry 13). -/
def completeIfPending (s : State) : State := if s.donePending then complete s else s

/-- FSM.IDLE (R117): "in `IDLE` the scheduler has no step"; an idle block keeps all state (60_exceptions R165). -/
def execFsmIdle (s : State) : Host.Outcome State Fault Refusal := unlessStopped s (.next s)

/-- FSM.STARTING (R121). DESIGN CHOICE: presented by itself it runs R121's pseudocode whatever `sch.state` is;
the dispatch of R119 alone ties it to STARTING (log entry 34). -/
def execFsmStarting (s : State) : Host.Outcome State Fault Refusal :=
  unlessStopped s (finish (microStarting s) .latency)

/-- FSM.COMPUTING (R124). DESIGN CHOICE: presented by itself it runs R124's pseudocode whatever `sch.state` is;
the dispatch of R119 alone ties it to COMPUTING (log entry 34). -/
def execFsmComputing (s : State) : Host.Outcome State Fault Refusal :=
  unlessStopped s (finish (microComputing s) .latency)

/-- FSM.STORING (R127). DESIGN CHOICE: presented by itself it runs R127's pseudocode whatever `sch.state` is;
the dispatch of R119 alone ties it to STORING (log entry 34). -/
def execFsmStoring (s : State) : Host.Outcome State Fault Refusal :=
  unlessStopped s (finish (microStoring s) .latency)

/-- FSM.FINISHED, which the completion continuation executes (R132). -/
def execFsmFinished (s : State) : Host.Outcome State Fault Refusal :=
  unlessStopped s (.next (completeIfPending s))

/-- SCHED.INVOKE (R118): where it is not enabled, `main_pending = 0`, it does not run (log entry 13). -/
def execSchedInvoke (s : State) : Host.Outcome State Fault Refusal :=
  unlessStopped s (if s.mainPending then finishUnit (invoke s) else .next s)

/-- SCHED.COMPLETE (R132). -/
def execSchedComplete (s : State) : Host.Outcome State Fault Refusal :=
  unlessStopped s (.next (completeIfPending s))

end Sys2Proof.Machine
end

