-- ==== Sys2Proof/Machine/Dispatch.lean ====
section
/-! DEFINITION. The dispatch: one arm per operation of spec/opcode_table.json, each one call of its meaning. -/

namespace Sys2Proof.Machine

def exec (i : Instr) (s : State) : Host.Outcome State Fault Refusal :=
  match i with
  | .cfgwrXBase wdata => Sys2Proof.Machine.execCfgwrXBase wdata s
  | .cfgwrWBase wdata => Sys2Proof.Machine.execCfgwrWBase wdata s
  | .cfgwrYBase wdata => Sys2Proof.Machine.execCfgwrYBase wdata s
  | .cfgwrZBase wdata => Sys2Proof.Machine.execCfgwrZBase wdata s
  | .cfgwrXTotLen wdata => Sys2Proof.Machine.execCfgwrXTotLen wdata s
  | .cfgwrWTotLen wdata => Sys2Proof.Machine.execCfgwrWTotLen wdata s
  | .cfgwrYTotLen wdata => Sys2Proof.Machine.execCfgwrYTotLen wdata s
  | .cfgwrZTotLen wdata => Sys2Proof.Machine.execCfgwrZTotLen wdata s
  | .cfgwrWIter rows cols => Sys2Proof.Machine.execCfgwrWIter rows cols s
  | .cfgwrXIter rows cols => Sys2Proof.Machine.execCfgwrXIter rows cols s
  | .cfgwrLeftover xRowLo xColLo wRowLo wColLo => Sys2Proof.Machine.execCfgwrLeftover xRowLo xColLo wRowLo wColLo s
  | .trigger ignored => Sys2Proof.Machine.execTrigger ignored s
  | .irqclr ignored => Sys2Proof.Machine.execIrqclr ignored s
  | .cfgwrXD0Len wdata => Sys2Proof.Machine.execCfgwrXD0Len wdata s
  | .cfgwrXD0Stride wdata => Sys2Proof.Machine.execCfgwrXD0Stride wdata s
  | .cfgwrXD1Len wdata => Sys2Proof.Machine.execCfgwrXD1Len wdata s
  | .cfgwrXD1Stride wdata => Sys2Proof.Machine.execCfgwrXD1Stride wdata s
  | .cfgwrXD2Len wdata => Sys2Proof.Machine.execCfgwrXD2Len wdata s
  | .cfgwrXD2Stride wdata => Sys2Proof.Machine.execCfgwrXD2Stride wdata s
  | .cfgwrXD3Stride wdata => Sys2Proof.Machine.execCfgwrXD3Stride wdata s
  | .cfgwrWD0Len wdata => Sys2Proof.Machine.execCfgwrWD0Len wdata s
  | .cfgwrWD0Stride wdata => Sys2Proof.Machine.execCfgwrWD0Stride wdata s
  | .cfgwrWD1Len wdata => Sys2Proof.Machine.execCfgwrWD1Len wdata s
  | .cfgwrWD1Stride wdata => Sys2Proof.Machine.execCfgwrWD1Stride wdata s
  | .cfgwrWD2Len wdata => Sys2Proof.Machine.execCfgwrWD2Len wdata s
  | .cfgwrWD2Stride wdata => Sys2Proof.Machine.execCfgwrWD2Stride wdata s
  | .cfgwrWD3Stride wdata => Sys2Proof.Machine.execCfgwrWD3Stride wdata s
  | .cfgwrYD0Len wdata => Sys2Proof.Machine.execCfgwrYD0Len wdata s
  | .cfgwrYD0Stride wdata => Sys2Proof.Machine.execCfgwrYD0Stride wdata s
  | .cfgwrYD1Len wdata => Sys2Proof.Machine.execCfgwrYD1Len wdata s
  | .cfgwrYD1Stride wdata => Sys2Proof.Machine.execCfgwrYD1Stride wdata s
  | .cfgwrYD2Len wdata => Sys2Proof.Machine.execCfgwrYD2Len wdata s
  | .cfgwrYD2Stride wdata => Sys2Proof.Machine.execCfgwrYD2Stride wdata s
  | .cfgwrYD3Stride wdata => Sys2Proof.Machine.execCfgwrYD3Stride wdata s
  | .cfgwrZD0Len wdata => Sys2Proof.Machine.execCfgwrZD0Len wdata s
  | .cfgwrZD0Stride wdata => Sys2Proof.Machine.execCfgwrZD0Stride wdata s
  | .cfgwrZD1Len wdata => Sys2Proof.Machine.execCfgwrZD1Len wdata s
  | .cfgwrZD1Stride wdata => Sys2Proof.Machine.execCfgwrZD1Stride wdata s
  | .cfgwrZD2Len wdata => Sys2Proof.Machine.execCfgwrZD2Len wdata s
  | .cfgwrZD2Stride wdata => Sys2Proof.Machine.execCfgwrZD2Stride wdata s
  | .cfgwrZD3Stride wdata => Sys2Proof.Machine.execCfgwrZD3Stride wdata s
  | .fsmIdle => Sys2Proof.Machine.execFsmIdle s
  | .fsmStarting => Sys2Proof.Machine.execFsmStarting s
  | .fsmComputing => Sys2Proof.Machine.execFsmComputing s
  | .fsmStoring => Sys2Proof.Machine.execFsmStoring s
  | .fsmFinished => Sys2Proof.Machine.execFsmFinished s
  | .stepNone => Sys2Proof.Machine.execStepNone s
  | .stepW => Sys2Proof.Machine.execStepW s
  | .stepX => Sys2Proof.Machine.execStepX s
  | .stepY => Sys2Proof.Machine.execStepY s
  | .stepZ => Sys2Proof.Machine.execStepZ s
  | .sgConfigure str base totLen d0Len d0Stride d1Len d1Stride d2Len d2Stride d3Stride => Sys2Proof.Machine.execSgConfigure str base totLen d0Len d0Stride d1Len d1Stride d2Len d2Stride d3Stride s
  | .sgIterate str slot strobe => Sys2Proof.Machine.execSgIterate str slot strobe s
  | .sgIsdone str => Sys2Proof.Machine.execSgIsdone str s
  | .tsAlloc n xRowLo xColLo wRowLo wColLo => Sys2Proof.Machine.execTsAlloc n xRowLo xColLo wRowLo wColLo s
  | .tsNextw => Sys2Proof.Machine.execTsNextw s
  | .tsNextx => Sys2Proof.Machine.execTsNextx s
  | .tsNexty => Sys2Proof.Machine.execTsNexty s
  | .tsNextz => Sys2Proof.Machine.execTsNextz s
  | .tsComputez => Sys2Proof.Machine.execTsComputez s
  | .tsFree => Sys2Proof.Machine.execTsFree s
  | .mkstrobe count width => Sys2Proof.Machine.execMkstrobe count width s
  | .schedEntry => Sys2Proof.Machine.execSchedEntry s
  | .schedInvoke => Sys2Proof.Machine.execSchedInvoke s
  | .schedComplete => Sys2Proof.Machine.execSchedComplete s

end Sys2Proof.Machine
end

