-- ==== Sys2Proof/Machine/Step.lean ====
section
/-! DEFINITION. The one step of the machine, and where the host places a word for the next step. -/

namespace Sys2Proof.Machine

/-- One step (60_exceptions R161, R163): the environment's next input, or, with none queued, the
scheduler's own pending continuation. -/
def step (s : State) : Host.Outcome State Fault Refusal :=
  match nextAction s with
  | .run i s1 => exec i s1
  | .become s1 => .next s1
  | .stopped f => .fault (.blockStopped f)
  | .refuse why => .refused why

/-- `s` with the table word `w` of `nbits` bits placed as its next input (log entries 1, 19); unchanged
where the numbers are no word. -/
def State.withFetchWord (s : State) (nbits w : Nat) : State :=
  match tableWord nbits w with
  | some word => placeWord word s
  | none => s

end Sys2Proof.Machine
end

