-- ==== Sys2Proof/Safety.lean ====
section
/-! DEFINITION. The terms in which claims about runs are stated: what the outside may present at the block's
boundary, the invariants of spec/10_state.md rules R18 and R30, and the length of a job
(spec/43_scheduler.md rule R140). -/

namespace Sys2Proof.Machine

/-! ## The boundary -/

/-- What reaches the block at its boundary (60_exceptions R161): a host command word, a continuation handed
back by the re-schedule primitive, reset, and another master's write to memory. The other words are
operations only the scheduler itself invokes (30_encoding R59). -/
def Input.atBoundary : Input → Bool
  | .word (.hc _) => true
  | .word (.unit .schedInvoke) => true
  | .word (.unit .schedComplete) => true
  | .word _ => false
  | .reset => true
  | .memory _ _ => true

/-- Everything the environment is going to do happens at the boundary. -/
abbrev State.boundaryOnly (s : State) : Prop := ∀ i ∈ s.inbox, i.atBoundary = true

/-! ## Configurations -/

/-- Parameters that meet rule R6's constraints and an `AW` for which `job.n` fits the 32 bits that rule R17
gives it (`n <= 65535 · AW`; log entry 28). -/
abbrev LegalParams (p : Params) : Prop := p.wf = true ∧ 65535 * p.aw < 2 ^ 32

/-- 40_host_commands R79 (a): every one of the 39 registers has a value. -/
abbrev CfgWritten (c : JobConfig) : Prop := ∀ r, (c.reg r).isSome = true

/-- 40_host_commands R79 (b): the three counts a job needs are at least 1. -/
abbrev CfgCounts (c : JobConfig) : Prop :=
  1 ≤ (iterRows (c.val .xIter)).toNat ∧ 1 ≤ (iterCols (c.val .xIter)).toNat ∧
  1 ≤ (iterCols (c.val .wIter)).toNat

/-- 40_host_commands R79 (c): the four leftover fields are below `AW`. -/
abbrev CfgLeftovers (p : Params) (c : JobConfig) : Prop :=
  (leftoverXRow (c.val .leftover)).toNat < p.aw ∧ (leftoverXCol (c.val .leftover)).toNat < p.aw ∧
  (leftoverWRow (c.val .leftover)).toNat < p.aw ∧ (leftoverWCol (c.val .leftover)).toNat < p.aw

/-- 40_host_commands R79 (d): the three dimension lengths of every stream are at least 1. -/
abbrev CfgLengths (c : JobConfig) : Prop :=
  ∀ str, 1 ≤ (c.val (.stream str .d0Len)).toNat ∧ 1 ≤ (c.val (.stream str .d1Len)).toNat ∧
    1 ≤ (c.val (.stream str .d2Len)).toNat

/-- The job configuration is valid: 40_host_commands R79 (a) to (d), each clause in the rule's words. -/
def CfgValid (p : Params) (c : JobConfig) : Prop :=
  CfgWritten c ∧ CfgCounts c ∧ CfgLeftovers p c ∧ CfgLengths c

/-! ## Stream descriptors: the invariants of 10_state R18 -/

/-- A dimension's counter stays below its length (given a length of at least 1) and its position is
`cnt × stride` mod 2^32 (R18). -/
abbrev DimInv (len stride pos cnt : Word) : Prop := (len ≠ 0 → cnt < len) ∧ pos = cnt * stride

/-- The invariants rule R18 states of one descriptor. -/
abbrev StreamInv (d : StreamDesc) : Prop :=
  DimInv d.d0Len d.d0Stride d.d0Pos d.d0Cnt ∧ DimInv d.d1Len d.d1Stride d.d1Pos d.d1Cnt ∧
  DimInv d.d2Len d.d2Stride d.d2Pos d.d2Cnt ∧ d.doneCnt ≤ d.totLen

/-- All four descriptors. -/
abbrev StreamsInv (s : State) : Prop :=
  StreamInv s.sg.x ∧ StreamInv s.sg.w ∧ StreamInv s.sg.y ∧ StreamInv s.sg.z

/-! ## The block: the invariants of 10_state R30 -/

/-- A buffer of so many rows of so many elements. -/
abbrev BufShape (b : TileBuf) (rows cols : Nat) : Prop := b.length = rows ∧ ∀ r ∈ b, r.length = cols

/-- `WCAP` of a job (R19). -/
def Job.wCap (j : Job) : Nat := j.n.toNat + j.wpad

/-- `XCAP` of a job (R19). -/
def Job.xCap (p : Params) (j : Job) : Nat := j.n.toNat + j.xpad + p.xExtra

/-- The job copy of a job that passed `cfg_valid` (40_host_commands R79 to R81). -/
abbrev JobInv (p : Params) (j : Job) : Prop :=
  j.n ≠ 0 ∧ j.nh = ceilDivide j.n.toNat p.aw ∧ j.wCols ≠ 0 ∧ j.xRows ≠ 0 ∧
  j.wpad = p.pad j.wRowLo.toNat ∧ j.xpad = p.pad j.xColLo.toNat ∧ j.wColLo.toNat < p.aw

/-- W and X while they exist: their extents, and the cursors below their capacities (R19, R20, R30 e). -/
abbrev LoadedInv (p : Params) (j : Job) (ts : TileStore) : Prop :=
  (∃ b ∈ ts.w, BufShape b j.wCap p.aw) ∧ (∃ b ∈ ts.x, BufShape b p.aw (j.xCap p)) ∧
  ts.wCnt < j.wCap ∧ ts.xC < j.xCap p ∧ ts.xOffs < j.xCap p

/-- Y and Z, which always exist, and the cursors bounded by `AW` (R19, R20, R30 d, e). -/
abbrev StoreInv (p : Params) (ts : TileStore) : Prop :=
  BufShape ts.y (2 * p.aw) p.aw ∧ BufShape ts.z p.aw p.aw ∧
  ts.yCnt < p.aw ∧ ts.zCnt < p.aw ∧ ts.xI < p.aw ∧ (ts.yOffs = 0 ∨ ts.yOffs = p.aw)

/-- The position and the progress of an active job (R21, R22, R30 f, g). -/
abbrev ProgressInv (p : Params) (j : Job) (c : Sched) : Prop :=
  (c.state = stStarting →
    c.pre < p.npre ∧ c.jobDone = false ∧ c.wColsIters = 0 ∧ c.xRowsIters = 0) ∧
  (c.state = stComputing → c.hyper.toNat < j.nh ∧ c.jobDone = false) ∧
  (c.state = stStoring → c.hyper = 0) ∧
  (c.state = stComputing ∨ c.state = stStoring → c.cyc < p.ncyc ∧ c.sub < p.nsub) ∧
  (c.state = stFinished → c.jobDone = true) ∧
  c.wColsIters < j.wCols ∧
  (c.jobDone = false → c.xRowsIters < j.xRows) ∧
  (c.jobDone = true → c.xRowsIters = j.xRows ∧ c.wColsIters = 0)

/-- What holds between any two steps of a block that has no fault: rule R30's clauses, with what makes them
hold again after the next step. -/
abbrev RunInv (s : State) : Prop :=
  s.sch.state.toNat ≤ 4 ∧
  (s.mainPending = true ↔
    s.sch.state = stStarting ∨ s.sch.state = stComputing ∨ s.sch.state = stStoring) ∧
  (s.donePending = true ↔ s.sch.state = stFinished) ∧
  (s.ts.allocated = true ↔ s.sch.state ≠ stIdle) ∧
  StoreInv s.par s.ts ∧
  s.sch.zStrb < 2 ^ s.par.lb ∧
  (s.sch.state = stIdle → s.job = none ∧ s.ts = .free s.par) ∧
  (s.sch.state ≠ stIdle →
    ∃ j ∈ s.job, JobInv s.par j ∧ LoadedInv s.par j s.ts ∧ ProgressInv s.par j s.sch)

/-- The invariant of the block: legal parameters, and `RunInv` "when `fault` is none" (R30). -/
abbrev BlockInv (s : State) : Prop := LegalParams s.par ∧ (s.fault = none → RunInv s)

/-- Rule R30, clauses (a) to (g), in its own words. -/
def RuleR30 (s : State) : Prop :=
  (s.sch.state = stIdle ↔ s.mainPending = false ∧ s.donePending = false) ∧
  (s.donePending = true ↔ s.sch.state = stFinished) ∧
  (s.ts.allocated = true ↔
    s.sch.state = stStarting ∨ s.sch.state = stComputing ∨ s.sch.state = stStoring ∨
      s.sch.state = stFinished) ∧
  (s.ts.yOffs = 0 ∨ s.ts.yOffs = s.par.aw) ∧
  (s.ts.xI < s.par.aw ∧ s.ts.yCnt < s.par.aw ∧ s.ts.zCnt < s.par.aw ∧
    (s.ts.allocated = true →
      ∃ j ∈ s.job, s.ts.wCnt < j.wCap ∧ s.ts.xC < j.xCap s.par ∧ s.ts.xOffs < j.xCap s.par)) ∧
  (s.sch.state ≠ stIdle →
    ∃ j ∈ s.job, s.sch.wColsIters < j.wCols ∧ s.sch.xRowsIters ≤ j.xRows ∧
      (s.sch.jobDone = true → s.sch.xRowsIters = j.xRows))

/-! ## The next micro-step and its access -/

/-- The stream whose step the next micro-step runs, none where it is a bubble by its selector: in STARTING Y for
the first `AW` preload steps, then X (43_scheduler R121); in COMPUTING and STORING W on subcycle 0, and on the
payload subcycles `1..PR` the payload of the cycle (R123). -/
def turn (s : State) : Option Stream :=
  if s.sch.state = stStarting then (if s.sch.pre < s.par.aw then some .y else some .x)
  else if s.sch.state = stComputing then
    (if s.sch.sub = 0 then some .w
    else if s.sch.sub ≤ s.par.pr ∧ s.sch.hyper = 0 ∧ s.sch.cyc ∈ s.par.xload then some .x
    else none)
  else if s.sch.state = stStoring then
    (if s.sch.sub = 0 then some .w
    else if s.par.pr < s.sch.sub then none
    else if s.sch.cyc = 0 then some .z
    else if s.sch.cyc = 1 then some .y
    else if s.sch.cyc + 2 = s.par.h then some .x
    else none)
  else none

/-- The stream step of a turn (43_scheduler R120). -/
def turnStep : Option Stream → Instr
  | none => .stepNone
  | some .w => .stepW
  | some .x => .stepX
  | some .y => .stepY
  | some .z => .stepZ

/-- The micro-step of the state (43_scheduler R119): STARTING, COMPUTING, or else STORING. -/
def microInstr (s : State) : Instr :=
  if s.sch.state = stStarting then .fsmStarting
  else if s.sch.state = stComputing then .fsmComputing
  else .fsmStoring

/-- The next micro-step makes a transaction: it is a stream's turn, and that stream is not done (43_scheduler
R133). Every other micro-step is a bubble and makes no access. -/
abbrev Accesses (s : State) : Prop :=
  ∃ str ∈ turn s, (s.sg.desc str).doneCnt ≠ (s.sg.desc str).totLen

/-- Where the next micro-step makes an access, the memory answers it with success (20_memory R35). -/
abbrev AccessSucceeds (s : State) : Prop := Accesses s → (nextAnswer s).1.status = .success

/-! ## Runs, and the end of a job (70_reset R182) -/

/-- A run, newest state first: each state is the step of the one before it. -/
def IsRun : List State → Prop
  | [] => False
  | [_] => True
  | t :: s :: before => step s = .next t ∧ IsRun (s :: before)

/-- The next step runs `SCHED.COMPLETE` where it is enabled (43_scheduler R132). -/
def runsCompletion (s : State) : Bool :=
  match nextAction s with
  | .run .schedComplete s1 => s1.donePending && s1.fault.isNone
  | _ => false

/-- The next step is the host's `IRQCLR`, in effect (40_host_commands R83). -/
def runsIrqclr (s : State) : Bool :=
  match nextAction s with
  | .run (.irqclr _) s1 => s1.fault.isNone
  | _ => false

/-- The next step is the reset input (70_reset R167). -/
def takesReset (s : State) : Bool :=
  match s.inbox with
  | .reset :: _ => true
  | _ => false

/-- In this run `SCHED.COMPLETE` has run, and since then neither a reset nor a new job (R168, R182). -/
def completedSince : List State → Bool
  | t :: s :: before =>
    runsCompletion s || (completedSince (s :: before) && !takesReset s && decide (t.sch.state = stIdle))
  | _ => false

/-- In this run the host has lowered `irq` since the last completion (R182: "unless the host cleared it since"). -/
def irqClearedSince : List State → Bool
  | _ :: s :: before => !runsCompletion s && (runsIrqclr s || irqClearedSince (s :: before))
  | _ => false

/-- A job has ended successfully at the end of this run: `SCHED.COMPLETE` has run for it, and the state is the
one R182 lists. A state alone does not tell: right after reset, or after a reset that abandoned a job, no
completion has run. Every Z-store of the job has been reported complete by then, since a store's status is part
of its micro-step and any other status than success is a fault (20_memory R35, R43 c). -/
def jobEnded : List State → Prop
  | [] => False
  | t :: before =>
    completedSince (t :: before) = true ∧ t.sch.state = stIdle ∧
    (t.irq = true ∨ irqClearedSince (t :: before) = true) ∧ t.fault = none ∧ t.ts.allocated = false

/-! ## Repeated calls -/

/-- The state after a next-slot operation has been called so many times (42_tile_store R100, R101). -/
def afterCalls (next : State → Res Slot) : Nat → State → State
  | 0, s => s
  | k + 1, s =>
    match next (afterCalls next k s) with
    | .ok _ t => t
    | .fatal t => t
    | .refused _ => afterCalls next k s

/-! ## The length of a job -/

/-- The micro-steps of one hypercycle (43_scheduler R122). -/
def hyperSteps (p : Params) : Nat := p.ncyc * p.nsub

/-- The micro-steps of a whole job: `3·AW + P·(nh + 1)·NCYC·NSUB`, `P = x_rows × w_cols` (R140). -/
def jobSteps (p : Params) (j : Job) : Nat :=
  3 * p.aw + j.xRows.toNat * j.wCols.toNat * ((j.nh + 1) * hyperSteps p)

/-- The passes of which the bookkeeping has been done (R129). -/
def passesCounted (j : Job) (c : Sched) : Nat := c.xRowsIters.toNat * j.wCols.toNat + c.wColsIters.toNat

/-- The micro-steps an active job still has to run, from its position (R140). -/
def remainingSteps (p : Params) (j : Job) (c : Sched) : Nat :=
  let passes := j.xRows.toNat * j.wCols.toNat - passesCounted j c
  let here := c.cyc * p.nsub + c.sub
  let whole := (j.nh + 1) * hyperSteps p
  if c.state = stStarting then (p.npre - c.pre) + passes * whole
  else if c.state = stComputing then
    ((j.nh - c.hyper.toNat) * hyperSteps p - here) + hyperSteps p + (passes - 1) * whole
  else if c.state = stStoring then (hyperSteps p - here) + passes * whole
  else 0

end Sys2Proof.Machine
end

