-- ==== Sys2Proof/Certificates/Slice0/Obligations.lean ====
section
/-! DEFINITION. The statements for the provers, one `Obligations.<Name> : Prop` each, from the numbered rules
of the spec. -/

open Sys2Proof Sys2Proof.Machine

/-! ## Encodings -/

/-- No bit of an operation's word is dropped: decoding the word of any operation gives it back (30_encoding
R59 to R65, R68, R69). For a `UNIT` operation, which has no encoding, the word is the operation itself. -/
def Obligations.DecodeOfEncodeIsIdentity : Prop :=
  ∀ i : Instr, decode (encode i) = .ok i

/-- Every word that decodes is the word of what it decodes to: no two words mean the same (R59 to R65). -/
def Obligations.EncodeOfDecodeIsIdentity : Prop :=
  ∀ (w : OpWord) (i : Instr), decode w = .ok i → encode i = w

/-- Words written out from 30_encoding R60 to R63, R68, R69 (vectors V1 to V5 and V7 of 95_test_vectors). -/
def Obligations.WordsFromTheSpecDecode : Prop :=
  decode (.hc 0x0000001000) = .ok (.cfgwrXBase 0x1000) ∧
  decode (.hc 0x2400020003) = .ok (.cfgwrXIter 2 3) ∧
  decode (.hc 0xB800000030) = .ok (.cfgwrZD3Stride 0x30) ∧
  decode (.hc 0x6800000005) = .ok (.cfgwrWD1Len 5) ∧
  decode (.hc 0x28070A0B03) = .ok (.cfgwrLeftover 7 10 11 3) ∧
  decode (.hc 0x2C00000000) = .ok (.trigger 0) ∧
  decode (.hc 0x3000000000) = .ok (.irqclr 0) ∧
  decode (.st 2) = .ok .fsmComputing ∧
  decode (.sel 4) = .ok .stepZ

/-- 30_encoding R66: exactly the listed offsets are reserved, and a host write to one is `BAD_OFFSET` with
the offset recorded, whatever the state (a block already stopped keeps its first fault, 60_exceptions R147).
Refusing is the spec's own choice (92 D36); the inbox is the model's (log entry 1), and that a refused command
is a next state is its reading of 60_exceptions R147, R153 (log entry 25). -/
def Obligations.ReservedOffsetsAreRefused : Prop :=
  (∀ word : BitVec 40,
    decode (.hc word) = .error (.badOffset (hcOffset word)) ↔
      hcOffset word ∈ ([0x34, 0x38, 0x3C, 0x5C, 0x7C, 0x9C, 0xBC] : List (BitVec 8)) ∨
        0xC0 ≤ (hcOffset word).toNat ∨ (hcOffset word).toNat % 4 ≠ 0) ∧
  (∀ (s : State) (word : BitVec 40) (rest : List Input),
    s.inbox = .word (.hc word) :: rest →
    decode (.hc word) = .error (.badOffset (hcOffset word)) →
    (s.fault = none →
      step s = .next { s with inbox := rest, fault := some (.badOffset (hcOffset word)) }) ∧
    (s.fault ≠ none → step s = .next { s with inbox := rest }))

/-- 43_scheduler R119, R120: `micro_step()` dispatches on the state register and `do_step(sel)` on the selector;
a code without a micro-step (IDLE, FINISHED, 5, 6, 7) is `BAD_STATE`, and an invocation that meets it schedules
nothing (R118); a selector code 5, 6 or 7 is `BAD_SELECTOR`. The code is recorded with both (60_exceptions R147,
log entry 23). In a running block the state has a micro-step (10_state R30, in the form of the block invariant). -/
def Obligations.DispatchFollowsTheCodes : Prop :=
  (∀ s : State,
    (s.sch.state = 1 → microStep s = microStarting s) ∧
    (s.sch.state = 2 → microStep s = microComputing s) ∧
    (s.sch.state = 3 → microStep s = microStoring s) ∧
    (s.sch.state ≠ 1 → s.sch.state ≠ 2 → s.sch.state ≠ 3 → s.fault = none →
      microStep s = .fatal { s with fault := some (.badState s.sch.state) } ∧
      (s.mainPending = true →
        exec .schedInvoke s =
          .next { s with mainPending := false, sch := { s.sch with latAcc := 0 },
                         fault := some (.badState s.sch.state) })) ∧
    (BlockInv s → s.fault = none → s.mainPending = true →
      s.sch.state = 1 ∨ s.sch.state = 2 ∨ s.sch.state = 3)) ∧
  (∀ s : State,
    doStep 0 s = stepNoneLatency s ∧ doStep 1 s = stepWLatency s ∧ doStep 2 s = stepXLatency s ∧
    doStep 3 s = stepYLatency s ∧ doStep 4 s = stepZLatency s ∧
    (s.fault = none → ∀ sel : BitVec 3, 4 < sel.toNat →
      doStep sel s = .fatal { s with fault := some (.badSelector sel) }))

/-! ## The step -/

/-- A step runs the operation its word decodes to: when the next input is a word that decodes to `i`, the
step is `exec i` on the state with that input taken off the inbox, and nothing else around it. -/
def Obligations.StepRunsTheDecodedWord : Prop :=
  ∀ (s : State) (w : OpWord) (rest : List Input) (i : Instr),
    s.inbox = .word w :: rest → decode w = .ok i → step s = exec i { s with inbox := rest }

/-- With nothing queued the scheduler runs its own pending continuation, idles without one, and has no step
after a fatal condition (43_scheduler R117, R118, R132; 10_state R26; the model's
order, log entries 1, 12, 32). -/
def Obligations.StepWithoutInput : Prop :=
  ∀ s : State, s.inbox = [] →
    (∀ f, s.fault = some f → step s = .fault (.blockStopped f)) ∧
    (s.fault = none → s.donePending = true → step s = exec .schedComplete s) ∧
    (s.fault = none → s.donePending = false → s.mainPending = true → step s = exec .schedInvoke s) ∧
    (s.fault = none → s.donePending = false → s.mainPending = false → step s = .next s)

/-- 10_state R29, for every parameter set: what reset leaves, line by line of the rule's table (where the
source gives no value the table is the spec's own choice, 92 D38). -/
def Obligations.ResetLeavesTheTableOfR29 : Prop :=
  ∀ p : Params,
    (∀ r, (State.initial p).cfg.reg r = none) ∧
    (State.initial p).job = none ∧
    (∀ str, (State.initial p).sg.desc str = ⟨0, 0, 0, 0, 0, 0, 0, 0, 0, 0, 0, 0, 0, 0, 0, 0, 0, 0⟩) ∧
    (State.initial p).ts.w = none ∧ (State.initial p).ts.x = none ∧
    (∀ r c, r < 2 * p.aw → c < p.aw → (State.initial p).ts.y.elem r c = some 0) ∧
    (∀ r c, r < p.aw → c < p.aw → (State.initial p).ts.z.elem r c = some 0) ∧
    ((State.initial p).ts.wCnt = 0 ∧ (State.initial p).ts.xI = 0 ∧ (State.initial p).ts.xC = 0 ∧
      (State.initial p).ts.yCnt = 0 ∧ (State.initial p).ts.zCnt = 0 ∧ (State.initial p).ts.xOffs = 0 ∧
      (State.initial p).ts.yOffs = 0 ∧ (State.initial p).ts.allocated = false) ∧
    ((State.initial p).sch.state = 0 ∧ (State.initial p).sch.pre = 0 ∧ (State.initial p).sch.hyper = 0 ∧
      (State.initial p).sch.cyc = 0 ∧ (State.initial p).sch.sub = 0 ∧
      (State.initial p).sch.wColsIters = 0 ∧ (State.initial p).sch.xRowsIters = 0 ∧
      (State.initial p).sch.jobDone = false ∧ (State.initial p).sch.finalRow = false ∧
      (State.initial p).sch.latAcc = 0 ∧ (State.initial p).sch.latTotal = 0) ∧
    (∀ q, (State.initial p).sch.zStrb.testBit q = decide (q < p.aw * p.eb)) ∧
    ((State.initial p).irq = false ∧ (State.initial p).mainPending = false ∧
      (State.initial p).donePending = false ∧ (State.initial p).fault = none)

/-- 70_reset R167, R168: the reset input puts the block at its reset values (10_state R29) and does not touch
external memory. That it keeps `inbox`, `memAnswers` and `memDraws` and clears `result`, fields of the model's
own, is the model's choice (log entry 27). -/
def Obligations.ResetInputResetsTheBlock : Prop :=
  ∀ (s : State) (rest : List Input), s.inbox = .reset :: rest →
    step s = .next { State.initial s.par with
      mem := s.mem, inbox := rest, memAnswers := s.memAnswers, memDraws := s.memDraws }

/-! ## Host commands -/

/-- 40_host_commands R77: in IDLE, `CFGWR` of a base address, a total length or a packed word completes, the
register holds the written 32 bits and nothing else changes. -/
def Obligations.CfgwrHeadRegistersComplete : Prop :=
  ∀ (s : State) (v : Word) (rows cols : BitVec 16) (a b c d : BitVec 8),
    s.fault = none → s.sch.state = stIdle →
    exec (.cfgwrXBase v) s = .next { s with cfg := { s.cfg with x := { s.cfg.x with base := some v } } } ∧
    exec (.cfgwrWBase v) s = .next { s with cfg := { s.cfg with w := { s.cfg.w with base := some v } } } ∧
    exec (.cfgwrYBase v) s = .next { s with cfg := { s.cfg with y := { s.cfg.y with base := some v } } } ∧
    exec (.cfgwrZBase v) s = .next { s with cfg := { s.cfg with z := { s.cfg.z with base := some v } } } ∧
    exec (.cfgwrXTotLen v) s = .next { s with cfg := { s.cfg with x := { s.cfg.x with totLen := some v } } } ∧
    exec (.cfgwrWTotLen v) s = .next { s with cfg := { s.cfg with w := { s.cfg.w with totLen := some v } } } ∧
    exec (.cfgwrYTotLen v) s = .next { s with cfg := { s.cfg with y := { s.cfg.y with totLen := some v } } } ∧
    exec (.cfgwrZTotLen v) s = .next { s with cfg := { s.cfg with z := { s.cfg.z with totLen := some v } } } ∧
    exec (.cfgwrWIter rows cols) s = .next { s with cfg := { s.cfg with wIter := some (rows ++ cols) } } ∧
    exec (.cfgwrXIter rows cols) s = .next { s with cfg := { s.cfg with xIter := some (rows ++ cols) } } ∧
    exec (.cfgwrLeftover a b c d) s =
      .next { s with cfg := { s.cfg with leftover := some (a ++ b ++ c ++ d) } }

/-- 40_host_commands R77: in IDLE, `CFGWR` of a register of the X or the W block completes, the register
holds the written 32 bits and nothing else changes. -/
def Obligations.CfgwrXAndWBlocksComplete : Prop :=
  ∀ (s : State) (v : Word), s.fault = none → s.sch.state = stIdle →
    exec (.cfgwrXD0Len v) s = .next { s with cfg := { s.cfg with x := { s.cfg.x with d0Len := some v } } } ∧
    exec (.cfgwrXD0Stride v) s = .next { s with cfg := { s.cfg with x := { s.cfg.x with d0Stride := some v } } } ∧
    exec (.cfgwrXD1Len v) s = .next { s with cfg := { s.cfg with x := { s.cfg.x with d1Len := some v } } } ∧
    exec (.cfgwrXD1Stride v) s = .next { s with cfg := { s.cfg with x := { s.cfg.x with d1Stride := some v } } } ∧
    exec (.cfgwrXD2Len v) s = .next { s with cfg := { s.cfg with x := { s.cfg.x with d2Len := some v } } } ∧
    exec (.cfgwrXD2Stride v) s = .next { s with cfg := { s.cfg with x := { s.cfg.x with d2Stride := some v } } } ∧
    exec (.cfgwrXD3Stride v) s = .next { s with cfg := { s.cfg with x := { s.cfg.x with d3Stride := some v } } } ∧
    exec (.cfgwrWD0Len v) s = .next { s with cfg := { s.cfg with w := { s.cfg.w with d0Len := some v } } } ∧
    exec (.cfgwrWD0Stride v) s = .next { s with cfg := { s.cfg with w := { s.cfg.w with d0Stride := some v } } } ∧
    exec (.cfgwrWD1Len v) s = .next { s with cfg := { s.cfg with w := { s.cfg.w with d1Len := some v } } } ∧
    exec (.cfgwrWD1Stride v) s = .next { s with cfg := { s.cfg with w := { s.cfg.w with d1Stride := some v } } } ∧
    exec (.cfgwrWD2Len v) s = .next { s with cfg := { s.cfg with w := { s.cfg.w with d2Len := some v } } } ∧
    exec (.cfgwrWD2Stride v) s = .next { s with cfg := { s.cfg with w := { s.cfg.w with d2Stride := some v } } } ∧
    exec (.cfgwrWD3Stride v) s = .next { s with cfg := { s.cfg with w := { s.cfg.w with d3Stride := some v } } }

/-- 40_host_commands R77: in IDLE, `CFGWR` of a register of the Y or the Z block completes, the register
holds the written 32 bits and nothing else changes. -/
def Obligations.CfgwrYAndZBlocksComplete : Prop :=
  ∀ (s : State) (v : Word), s.fault = none → s.sch.state = stIdle →
    exec (.cfgwrYD0Len v) s = .next { s with cfg := { s.cfg with y := { s.cfg.y with d0Len := some v } } } ∧
    exec (.cfgwrYD0Stride v) s = .next { s with cfg := { s.cfg with y := { s.cfg.y with d0Stride := some v } } } ∧
    exec (.cfgwrYD1Len v) s = .next { s with cfg := { s.cfg with y := { s.cfg.y with d1Len := some v } } } ∧
    exec (.cfgwrYD1Stride v) s = .next { s with cfg := { s.cfg with y := { s.cfg.y with d1Stride := some v } } } ∧
    exec (.cfgwrYD2Len v) s = .next { s with cfg := { s.cfg with y := { s.cfg.y with d2Len := some v } } } ∧
    exec (.cfgwrYD2Stride v) s = .next { s with cfg := { s.cfg with y := { s.cfg.y with d2Stride := some v } } } ∧
    exec (.cfgwrYD3Stride v) s = .next { s with cfg := { s.cfg with y := { s.cfg.y with d3Stride := some v } } } ∧
    exec (.cfgwrZD0Len v) s = .next { s with cfg := { s.cfg with z := { s.cfg.z with d0Len := some v } } } ∧
    exec (.cfgwrZD0Stride v) s = .next { s with cfg := { s.cfg with z := { s.cfg.z with d0Stride := some v } } } ∧
    exec (.cfgwrZD1Len v) s = .next { s with cfg := { s.cfg with z := { s.cfg.z with d1Len := some v } } } ∧
    exec (.cfgwrZD1Stride v) s = .next { s with cfg := { s.cfg with z := { s.cfg.z with d1Stride := some v } } } ∧
    exec (.cfgwrZD2Len v) s = .next { s with cfg := { s.cfg with z := { s.cfg.z with d2Len := some v } } } ∧
    exec (.cfgwrZD2Stride v) s = .next { s with cfg := { s.cfg with z := { s.cfg.z with d2Stride := some v } } } ∧
    exec (.cfgwrZD3Stride v) s = .next { s with cfg := { s.cfg with z := { s.cfg.z with d3Stride := some v } } }

/-- 10_state R14, R18: the 39 registers are separate, and so are the four stream descriptors: a write to one
is read back from it and from no other. -/
def Obligations.CfgRegistersAreSeparate : Prop :=
  (∀ (c : JobConfig) (r r' : CfgReg) (v : Option Word),
    (c.setReg r v).reg r' = if r' = r then v else c.reg r') ∧
  (∀ (g : Streams) (str str' : Stream) (d : StreamDesc),
    (g.setDesc str d).desc str' = if str' = str then d else g.desc str')

/-- 40_host_commands R77, for every word at one of the 39 offsets: in IDLE the register takes the word's 32
bits, legal or not, whatever it held, and nothing else changes; otherwise it is `CFG_WHILE_BUSY` with the
offset and no register is written (refusing is the spec's own choice, 92 D35; that it is a next state with the
offset recorded is read from 60_exceptions R147, R153, log entries 23, 25). -/
def Obligations.CfgwrIsRuleR77 : Prop :=
  ∀ (s : State) (word : BitVec 40) (r : CfgReg) (i : Instr),
    cfgRegAt (hcOffset word) = some r → decode (.hc word) = .ok i → s.fault = none →
    (s.sch.state = stIdle →
      exec i s = .next { s with cfg := s.cfg.setReg r (some (word.extractLsb' 0 32)) }) ∧
    (s.sch.state ≠ stIdle →
      exec i s = .next { s with fault := some (.cfgWhileBusy (hcOffset word)) })

/-- 40_host_commands R79: the check at trigger passes exactly for the configurations that meet (a) to (d). -/
def Obligations.ConfigCheckIsRuleR79 : Prop :=
  ∀ (p : Params) (c : JobConfig), cfgCheck p c = none ↔ CfgValid p c

/-- 40_host_commands R78, R80: in IDLE with a valid configuration `TRIGGER` (whatever its ignored data), and
the entry action it invokes, latch the job, configure the four streams, allocate W and X without values, zero
the scheduling counters and make the first main continuation pending; `irq`, JobConfig, memory and everything
else stay. That SCHED.ENTRY, presented by itself, does so in every `sch.state` is the model's choice (log entry
35): the spec has it invoked only by a `TRIGGER` in IDLE. The descriptors are 41_stride_generator R86's, W and X
42_tile_store R98's and R99's. That `n` is cut to the 32 bits of 10_state R17, which shows for an `AW` of 65538 and
more, is the model's choice (log entry 28). -/
def Obligations.TriggerStartsTheJob : Prop :=
  ∀ (s : State) (d : Word) (i : Instr), s.fault = none → CfgValid s.par s.cfg →
    (i = .trigger d ∧ s.sch.state = stIdle) ∨ i = .schedEntry →
    ∃ t, exec i s = .next t ∧
      (∀ j ∈ t.job,
        j.xRows = iterRows (s.cfg.val .xIter) ∧ j.xCols = iterCols (s.cfg.val .xIter) ∧
        j.wRows = iterRows (s.cfg.val .wIter) ∧ j.wCols = iterCols (s.cfg.val .wIter) ∧
        j.xRowLo = leftoverXRow (s.cfg.val .leftover) ∧ j.xColLo = leftoverXCol (s.cfg.val .leftover) ∧
        j.wRowLo = leftoverWRow (s.cfg.val .leftover) ∧ j.wColLo = leftoverWCol (s.cfg.val .leftover) ∧
        j.n = BitVec.ofNat 32 ((j.xCols.toNat - 1) * s.par.aw +
          (if j.xColLo = 0 then s.par.aw else j.xColLo.toNat)) ∧
        j.nh = (j.n.toNat + s.par.aw - 1) / s.par.aw ∧
        j.wpad = (if j.wRowLo = 0 then 0 else s.par.aw - j.wRowLo.toNat) ∧
        j.xpad = (if j.xColLo = 0 then 0 else s.par.aw - j.xColLo.toNat) ∧
        t.ts = { s.ts with
          w := some (List.replicate (j.n.toNat + j.wpad) (List.replicate s.par.aw none))
          x := some (List.replicate s.par.aw
            (List.replicate (j.n.toNat + j.xpad + 2 * s.par.h * (s.par.pd + 1)) none))
          wCnt := 0, xI := 0, xC := 0, yCnt := 0, zCnt := 0, allocated := true }) ∧
      (∀ str, t.sg.desc str =
        { base := s.cfg.val (.stream str .base), totLen := s.cfg.val (.stream str .totLen),
          d0Len := s.cfg.val (.stream str .d0Len), d0Stride := s.cfg.val (.stream str .d0Stride),
          d1Len := s.cfg.val (.stream str .d1Len), d1Stride := s.cfg.val (.stream str .d1Stride),
          d2Len := s.cfg.val (.stream str .d2Len), d2Stride := s.cfg.val (.stream str .d2Stride),
          d3Stride := s.cfg.val (.stream str .d3Stride), d0Pos := 0, d1Pos := 0, d2Pos := 0, d3Pos := 0,
          d0Cnt := 0, d1Cnt := 0, d2Cnt := 0, doneCnt := 0, latCum := 0 }) ∧
      t.sch = { state := stStarting, pre := 0, hyper := 0, cyc := 0, sub := 0, wColsIters := 0,
                xRowsIters := 0, jobDone := false, finalRow := false, zStrb := 2 ^ (s.par.aw * s.par.eb) - 1,
                latAcc := 0, latTotal := 0 } ∧
      t.job.isSome = true ∧
      t = { s with job := t.job, sg := t.sg, ts := t.ts, sch := t.sch, mainPending := true }

/-- 40_host_commands R78: while the block is busy a `TRIGGER` is `TRIGGER_WHILE_BUSY` with the state; in IDLE
with an invalid configuration it is `BAD_CONFIG` with the check of rule R79 that fails; both change nothing
else (refusing is the spec's own choice, 92 D35). Otherwise it is `SCHED.ENTRY`. What is recorded is 60_exceptions
R147's last column. Where several checks fail the order "decides only the diagnostic" (60_exceptions R157); that
the first in the order (a) to (d) is recorded (`unwritten`, `zeroCount`, `leftoverTooLarge`, `zeroLength`),
whatever later one fails too, is the model's reading (log entry 23). -/
def Obligations.TriggerIsRuleR78 : Prop :=
  ∀ (s : State) (d : Word), s.fault = none →
    (s.sch.state ≠ stIdle →
      exec (.trigger d) s = .next { s with fault := some (.triggerWhileBusy s.sch.state) }) ∧
    (s.sch.state = stIdle → ¬ CfgValid s.par s.cfg →
      ∃ check, exec (.trigger d) s = .next { s with fault := some (.badConfig check) } ∧
        (check = .unwritten ↔ ¬ CfgWritten s.cfg) ∧
        (check = .zeroCount ↔ CfgWritten s.cfg ∧ ¬ CfgCounts s.cfg) ∧
        (check = .leftoverTooLarge ↔ CfgWritten s.cfg ∧ CfgCounts s.cfg ∧ ¬ CfgLeftovers s.par s.cfg) ∧
        (check = .zeroLength ↔
          CfgWritten s.cfg ∧ CfgCounts s.cfg ∧ CfgLeftovers s.par s.cfg ∧ ¬ CfgLengths s.cfg)) ∧
    (s.sch.state = stIdle → CfgValid s.par s.cfg → exec (.trigger d) s = exec .schedEntry s)

/-- 40_host_commands R83, R65: a word at offset 0x30 is `IRQCLR` whatever its ignored data, and in every state
without a fault `irq` becomes 0 and nothing else changes. -/
def Obligations.IrqclrLowersTheInterrupt : Prop :=
  ∀ (s : State) (d : Word), s.fault = none →
    decode (.hc ((0x30 : BitVec 8) ++ d)) = .ok (.irqclr d) ∧
    exec (.irqclr d) s = .next { s with irq := false }

/-- 40_host_commands R81 (the spec's own derivation of `n`, 92 D13): the latched `n` is
`(x_cols - 1)·AW + (x_col_lo = 0 ? AW : x_col_lo)`; for a valid configuration `x_cols = ceil(n / AW)`,
`x_col_lo = n mod AW`, and `n + xpad = x_cols · AW`. The premise `LegalParams` bounds `AW` so that `n` fits its
32 bits (log entry 28). -/
def Obligations.ContractionDimensionMatchesTheTiles : Prop :=
  ∀ (p : Params) (c : JobConfig), LegalParams p → CfgValid p c →
    (latchedJob p c).n.toNat = ((latchedJob p c).xCols.toNat - 1) * p.aw +
      (if (latchedJob p c).xColLo = 0 then p.aw else (latchedJob p c).xColLo.toNat) ∧
    (latchedJob p c).nh = (latchedJob p c).xCols.toNat ∧
    (latchedJob p c).n.toNat % p.aw = (latchedJob p c).xColLo.toNat ∧
    (latchedJob p c).n.toNat + (latchedJob p c).xpad = (latchedJob p c).xCols.toNat * p.aw

/-! ## Fatal conditions -/

/-- 60_exceptions R147: while `fault` is set no operation has an effect, host commands among them. That this
holds of operations of every format is the model's reading (log entry 12). -/
def Obligations.NoEffectWhileFaultIsSet : Prop :=
  ∀ (i : Instr) (s : State) (f : Fatal), s.fault = some f → exec i s = .next s

/-- 60_exceptions R147, R159: once set, `fault` is cleared by reset alone, and until then every piece of the
block's state, the interrupt level among them, keeps its value through every step (10_state R26, 70_reset R179).
That this holds of an operation of any format presented to the block is the model's reading (log entry 12). -/
def Obligations.FaultIsClearedByResetAlone : Prop :=
  ∀ (s t : State) (f : Fatal), s.fault = some f → step s = .next t →
    (∃ rest, s.inbox = .reset :: rest ∧ t.fault = none) ∨
    (t.fault = some f ∧ t.cfg = s.cfg ∧ t.job = s.job ∧ t.sg = s.sg ∧ t.ts = s.ts ∧ t.sch = s.sch ∧
      t.irq = s.irq ∧ t.mainPending = s.mainPending ∧ t.donePending = s.donePending)

/-! ## StrideGenerator -/

/-- 41_stride_generator R86: `SG.CONFIGURE` completes, stores the nine parameters and zeroes positions,
counters and the latency (clearing the latency is the spec's own choice, 92 D32); nothing else changes. That it
does so presented by itself in every `sch.state` is the model's choice (log entry 37). -/
def Obligations.SgConfigureCompletes : Prop :=
  ∀ (s : State) (str : Stream) (b n l0 t0 l1 t1 l2 t2 t3 : Word), s.fault = none →
    exec (.sgConfigure str b n l0 t0 l1 t1 l2 t2 t3) s =
      .next { s with
        sg := s.sg.setDesc str
          { base := b, totLen := n, d0Len := l0, d0Stride := t0, d1Len := l1, d1Stride := t1, d2Len := l2,
            d2Stride := t2, d3Stride := t3, d0Pos := 0, d1Pos := 0, d2Pos := 0, d3Pos := 0, d0Cnt := 0,
            d1Cnt := 0, d2Cnt := 0, doneCnt := 0, latCum := 0 } }

/-- 41_stride_generator R92, R94: a bubble completes for every stream and strobe: latency 1, charged to the
stream, no transaction, no position, no counter, not `done_cnt`. `SG.ISDONE` completes, returns
`done_cnt = tot_len` and changes nothing; after `SG.CONFIGURE` with `tot_len = 0` it is true at once. That the
operations run by themselves in every `sch.state` is the model's choice (log entry 37). -/
def Obligations.SgBubbleAndIsdoneComplete : Prop :=
  ∀ (s : State) (str : Stream), s.fault = none →
    (∀ strobe : Nat, exec (.sgIterate str none strobe) s =
      .next { s with
        sg := s.sg.setDesc str { s.sg.desc str with latCum := (s.sg.desc str).latCum + 1 }
        result := .latency 1 }) ∧
    exec (.sgIsdone str) s =
      .next { s with result := .truth (decide ((s.sg.desc str).doneCnt = (s.sg.desc str).totLen)) } ∧
    (∀ (b l0 t0 l1 t1 l2 t2 t3 : Word) (t : State),
      exec (.sgConfigure str b 0 l0 t0 l1 t1 l2 t2 t3) s = .next t →
      exec (.sgIsdone str) t = .next { t with result := .truth true })

/-- 41_stride_generator R87, R88: with a slot, an X, W or Y stream that is not done reads the line of `LB`
bytes at `u32(base + d0_pos + d1_pos + d2_pos + d3_pos)` into the slot, whatever the strobe, and returns the
latency the memory answered plus 1; nothing else changes. Byte `q` of the line is the content at `u32(addr + q)`
(20_memory R33), `bytes_to_line` is R93's. That a slot of any kind is taken, a Z slot among them where 10_state R20
has `compute_z()` the only writer of Z, is the model's choice (log entry 33), and so is that the operation runs by
itself in every `sch.state` (log entry 37). -/
def Obligations.SgIterateReadsALine : Prop :=
  ∀ (s s1 : State) (str : Stream) (sl : Slot) (strobe l : Nat) (old : List TileElem) (addr : Word),
    s.fault = none → str ≠ .z → (s.sg.desc str).doneCnt ≠ (s.sg.desc str).totLen →
    s.ts.readSlot s.par sl = some old → nextAnswer s = (⟨.success, l⟩, s1) →
    addr = (s.sg.desc str).base + (s.sg.desc str).d0Pos + (s.sg.desc str).d1Pos + (s.sg.desc str).d2Pos +
      (s.sg.desc str).d3Pos →
    exec (.sgIterate str (some sl) strobe) s =
      .next { s with
        memAnswers := s1.memAnswers, memDraws := s1.memDraws
        ts := s.ts.writeSlot sl (bytesToLine s.par.aw s.par.eb
          ((List.range (s.par.aw * s.par.eb)).map (fun q => Memory.read s.mem ((addr.toNat + q) % 2 ^ 32))))
        sg := s.sg.setDesc str (StreamDesc.afterStep (s.sg.desc str) l)
        result := .latency (l + 1) }

/-- 41_stride_generator R87, R88: with a slot, the Z stream, when not done, writes the slot's line under the
strobe at its address and returns the latency the memory answered plus 1; nothing else changes. What a strobed
write leaves in memory is the statement StrobedWriteTouchesEnabledBytesOnly. That a slot of any kind is taken is the
model's choice (log entry 33), and so is that the operation runs by itself in every `sch.state` (log entry 37). -/
def Obligations.SgIterateWritesALine : Prop :=
  ∀ (s s1 : State) (sl : Slot) (strobe l : Nat) (line : List TileElem),
    s.fault = none → (s.sg.desc .z).doneCnt ≠ (s.sg.desc .z).totLen →
    s.ts.readSlot s.par sl = some line → nextAnswer s = (⟨.success, l⟩, s1) →
    exec (.sgIterate .z (some sl) strobe) s =
      .next { s with
        memAnswers := s1.memAnswers, memDraws := s1.memDraws
        mem := Memory.writeBytes s.mem
          ((s.sg.desc .z).base + (s.sg.desc .z).d0Pos + (s.sg.desc .z).d1Pos + (s.sg.desc .z).d2Pos +
            (s.sg.desc .z).d3Pos) strobe (lineToBytes s.par.eb line)
        sg := s.sg.setDesc .z (StreamDesc.afterStep (s.sg.desc .z) l)
        result := .latency (l + 1) }

/-- 60_exceptions R150, 41_stride_generator R88: a status other than success is `MEM_STATUS` with stream,
address and status, before the slot or the stream position changes. For a Z store the bytes the strobe
enables are unspecified (93 U4, log entry 6), every other byte of memory is unchanged. A stream step meets it after
its next-slot operation (43_scheduler R136 to R139): its tile-store cursor has moved, and nothing else of the tile
store, of the descriptors or of the scheduler has changed. (A slot of any kind: log entry 33; operations by
themselves in every `sch.state`: log entry 37; capacities from the buffers: log entry 22.) -/
def Obligations.BadMemoryStatusIsFatal : Prop :=
  ∀ (s s1 : State) (c l : Nat), s.fault = none → nextAnswer s = (⟨.other c, l⟩, s1) →
    (∀ (str : Stream) (sl : Slot) (strobe : Nat) (line : List TileElem) (addr : Word),
      (s.sg.desc str).doneCnt ≠ (s.sg.desc str).totLen → s.ts.readSlot s.par sl = some line →
      addr = (s.sg.desc str).base + (s.sg.desc str).d0Pos + (s.sg.desc str).d1Pos + (s.sg.desc str).d2Pos +
        (s.sg.desc str).d3Pos →
      ∃ m, exec (.sgIterate str (some sl) strobe) s =
          .next { s with
            memAnswers := s1.memAnswers, memDraws := s1.memDraws, mem := m
            fault := some (.memStatus str addr (.other c)) } ∧
        (str ≠ .z → m = s.mem) ∧
        (∀ a, (∀ q, q < s.par.eb * line.length → strobe.testBit q = true → a ≠ (addr.toNat + q) % 2 ^ 32) →
          Memory.read m a = Memory.read s.mem a)) ∧
    (∀ b, s.ts.w = some b → s.ts.wCnt < b.length → s.sg.w.doneCnt ≠ s.sg.w.totLen →
      exec .stepW s = .next { s with
        memAnswers := s1.memAnswers, memDraws := s1.memDraws
        ts := { s.ts with wCnt := (s.ts.wCnt + 1) % b.length }
        fault := some (.memStatus .w s.sg.w.addr (.other c)) }) ∧
    (∀ row b, s.ts.x = some (row :: b) → row.length ≠ 0 → s.ts.xI < (row :: b).length →
      s.sg.x.doneCnt ≠ s.sg.x.totLen →
      exec .stepX s = .next { s with
        memAnswers := s1.memAnswers, memDraws := s1.memDraws
        ts := { s.ts with
          xI := if s.ts.xI + 1 = s.par.aw then 0 else s.ts.xI + 1
          xC := if s.ts.xI + 1 = s.par.aw then (s.ts.xC + s.par.aw) % row.length else s.ts.xC }
        fault := some (.memStatus .x s.sg.x.addr (.other c)) }) ∧
    (s.ts.yOffs + s.ts.yCnt < s.ts.y.length → s.sg.y.doneCnt ≠ s.sg.y.totLen →
      exec .stepY s = .next { s with
        memAnswers := s1.memAnswers, memDraws := s1.memDraws
        ts := { s.ts with yCnt := (s.ts.yCnt + 1) % s.par.aw }
        fault := some (.memStatus .y s.sg.y.addr (.other c)) }) ∧
    (∀ line, s.ts.z[s.ts.zCnt]? = some line → s.sg.z.doneCnt ≠ s.sg.z.totLen →
      ∃ m, exec .stepZ s = .next { s with
          memAnswers := s1.memAnswers, memDraws := s1.memDraws, mem := m
          ts := { s.ts with zCnt := (s.ts.zCnt + 1) % s.par.aw }
          fault := some (.memStatus .z s.sg.z.addr (.other c)) } ∧
        (∀ a, (∀ q, q < s.par.eb * line.length → s.sch.zStrb.testBit q = true →
            a ≠ (s.sg.z.addr.toNat + q) % 2 ^ 32) →
          Memory.read m a = Memory.read s.mem a))

/-- 40_host_commands R82: after `t` transactions of a freshly configured stream, `t < tot_len`, the next one
accesses `base + (t mod L0)·S0 + ((t div L0) mod L1)·S1 + ((t div (L0·L1)) mod L2)·S2 + (t div (L0·L1·L2))·S3`
(mod 2^32), whatever latencies the memory answered. The spec marks the formula as derived from 41 R87, R89. -/
def Obligations.StreamAddressClosedForm : Prop :=
  ∀ (b n l0 t0 l1 t1 l2 t2 t3 : Word) (lats : List Nat) (t : Nat),
    l0 ≠ 0 → l1 ≠ 0 → l2 ≠ 0 → t = lats.length → t < n.toNat →
    (lats.foldl StreamDesc.afterStep (configured b n l0 t0 l1 t1 l2 t2 t3)).addr =
      b + BitVec.ofNat 32 (t % l0.toNat) * t0 + BitVec.ofNat 32 (t / l0.toNat % l1.toNat) * t1 +
        BitVec.ofNat 32 (t / (l0.toNat * l1.toNat) % l2.toNat) * t2 +
        BitVec.ofNat 32 (t / (l0.toNat * l1.toNat * l2.toNat)) * t3

/-- 41_stride_generator R88, R90, R94: a transaction adds 1 to `done_cnt` and `l + 1` to the cumulative
latency and keeps the configuration; the one that reaches `tot_len` also returns every position and dimension
counter to 0. -/
def Obligations.TransactionCountsAndRestarts : Prop :=
  ∀ (d : StreamDesc) (l : Nat),
    (d.afterStep l).doneCnt = d.doneCnt + 1 ∧ (d.afterStep l).latCum = d.latCum + l + 1 ∧
    (d.afterStep l).base = d.base ∧ (d.afterStep l).totLen = d.totLen ∧
    (d.afterStep l).d0Len = d.d0Len ∧ (d.afterStep l).d1Len = d.d1Len ∧ (d.afterStep l).d2Len = d.d2Len ∧
    (d.afterStep l).d0Stride = d.d0Stride ∧ (d.afterStep l).d1Stride = d.d1Stride ∧
    (d.afterStep l).d2Stride = d.d2Stride ∧ (d.afterStep l).d3Stride = d.d3Stride ∧
    (d.doneCnt + 1 = d.totLen →
      (d.afterStep l).d0Pos = 0 ∧ (d.afterStep l).d1Pos = 0 ∧ (d.afterStep l).d2Pos = 0 ∧
      (d.afterStep l).d3Pos = 0 ∧ (d.afterStep l).d0Cnt = 0 ∧ (d.afterStep l).d1Cnt = 0 ∧
      (d.afterStep l).d2Cnt = 0)

/-- 10_state R18: in every stream descriptor each counter stays below its length (given lengths of at least
1), each position is count times stride mod 2^32, and `done_cnt <= tot_len`; every step of any kind keeps it. -/
def Obligations.StepKeepsStreamInvariants : Prop :=
  ∀ s t : State, StreamsInv s → step s = .next t → StreamsInv t

/-! ## Memory -/

/-- 20_memory R34: byte `q` of the line becomes `b[q]` where the strobe bit is 1; every other byte of memory,
the unstrobed bytes of the line among them, is left untouched. -/
def Obligations.StrobedWriteTouchesEnabledBytesOnly : Prop :=
  ∀ (m : Memory) (addr : Word) (strobe : Nat) (bytes : List (Option Byte)),
    Memory.wf m → bytes.length ≤ 2 ^ 32 →
    (∀ q (h : q < bytes.length), strobe.testBit q = true →
      Memory.read (Memory.writeBytes m addr strobe bytes) ((addr.toNat + q) % 2 ^ 32) = bytes[q]) ∧
    (∀ a, (∀ q, q < bytes.length → strobe.testBit q = true → a ≠ (addr.toNat + q) % 2 ^ 32) →
      Memory.read (Memory.writeBytes m addr strobe bytes) a = Memory.read m a)

/-- The memory's canonical form (20_memory R31; log entry 4) is kept by every step. -/
def Obligations.StepKeepsMemoryCanonical : Prop :=
  ∀ s t : State, Memory.wf s.mem → step s = .next t → Memory.wf t.mem

/-- 41_stride_generator R85: only the Z stream writes memory: every operation that is not a Z step, or a
micro-step of STORING or an invocation that may contain one, leaves every byte as it was. That a stream has a
fixed direction is the spec's own derivation (92 D44). -/
def Obligations.OnlyZStepsWriteMemory : Prop :=
  ∀ (i : Instr) (s t : State), exec i s = .next t →
    (∀ a, Memory.read t.mem a = Memory.read s.mem a) ∨ i = .stepZ ∨ i = .fsmStoring ∨
      (i = .schedInvoke ∧ s.sch.state = stStoring) ∨ ∃ sl strobe, i = .sgIterate .z (some sl) strobe

/-! ## TileStore -/

/-- 42_tile_store R98, R99, R110: `TS.ALLOC` gives W and X their extents with no element holding a value and
clears the five cursors, leaving Y, Z and the offsets; `TS.FREE` leaves W and X absent, Y and Z all zero, and
every cursor and offset 0. Both complete and change nothing else. That each, presented by itself, does so
whatever `ts.allocated` is, is the model's choice (log entry 35): the spec has TS.ALLOC invoked with it 0 and
TS.FREE with it 1. So are the sizes for operands outside the spec's range, where a leftover above `AW` pads by 0 and
`n` may be 0 (log entry 36). -/
def Obligations.TsAllocAndFreeComplete : Prop :=
  ∀ (s : State) (n : Word) (a b c d : BitVec 8), s.fault = none →
    exec (.tsAlloc n a b c d) s =
      .next { s with ts := { s.ts with
        w := some (List.replicate (n.toNat + (if c.toNat = 0 then 0 else s.par.aw - c.toNat))
          (List.replicate s.par.aw none))
        x := some (List.replicate s.par.aw (List.replicate
          (n.toNat + (if b.toNat = 0 then 0 else s.par.aw - b.toNat) + 2 * s.par.h * (s.par.pd + 1)) none))
        wCnt := 0, xI := 0, xC := 0, yCnt := 0, zCnt := 0, allocated := true } } ∧
    exec .tsFree s =
      .next { s with ts :=
        { w := none, x := none
          y := List.replicate (2 * s.par.aw) (List.replicate s.par.aw (some 0))
          z := List.replicate s.par.aw (List.replicate s.par.aw (some 0))
          wCnt := 0, xI := 0, xC := 0, yCnt := 0, zCnt := 0, xOffs := 0, yOffs := 0,
          allocated := false } }

/-- 42_tile_store R101 to R103: the next-slot operations of X, Y and Z complete, return the slot at the cursor
and advance the cursor with its wrap; X needs a buffer that exists (the order of X slots is the spec's own
choice, 92 D16). Taking `XCAP` (R99) from the columns of the buffer is the model's reading (log entry 22); that the
operations run by themselves in every `sch.state` is its choice (log entry 37). -/
def Obligations.NextSlotsComplete : Prop :=
  ∀ s : State, s.fault = none →
    (∀ row b, s.ts.x = some (row :: b) → row.length ≠ 0 →
      exec .tsNextx s =
        .next { s with
          ts := if s.ts.xI + 1 = s.par.aw then
              { s.ts with xI := 0, xC := (s.ts.xC + s.par.aw) % row.length }
            else { s.ts with xI := s.ts.xI + 1 }
          result := .slot (.x s.ts.xI s.ts.xC) }) ∧
    exec .tsNexty s =
      .next { s with ts := { s.ts with yCnt := (s.ts.yCnt + 1) % s.par.aw }
                     result := .slot (.y (s.ts.yOffs + s.ts.yCnt)) } ∧
    exec .tsNextz s =
      .next { s with ts := { s.ts with zCnt := (s.ts.zCnt + 1) % s.par.aw }
                     result := .slot (.z s.ts.zCnt) }

/-- 42_tile_store R100: `TS.NEXTW` returns the row at the cursor and moves it by 1 modulo `WCAP`; the `t`-th
call since allocation returns row `t mod WCAP`. Taking `WCAP` from the rows of the buffer is the model's
reading (log entry 22); that a leftover above `AW` pads by 0, and that the operation runs by itself in every
`sch.state`, are its choices (log entries 36, 37). -/
def Obligations.NextWWalksTheRing : Prop :=
  (∀ (s : State) (b : TileBuf), s.fault = none → s.ts.w = some b → b.length ≠ 0 →
    exec .tsNextw s =
      .next { s with ts := { s.ts with wCnt := (s.ts.wCnt + 1) % b.length }
                     result := .slot (.w s.ts.wCnt) }) ∧
  (∀ (s : State) (n : Word) (a b c d : BitVec 8) (t : Nat),
    n.toNat + (if c.toNat = 0 then 0 else s.par.aw - c.toNat) ≠ 0 →
    ∃ u, nextW (afterCalls nextW t { s with ts := s.ts.alloc s.par n a b c d }) =
      .ok (.w (t % (n.toNat + (if c.toNat = 0 then 0 else s.par.aw - c.toNat)))) u)

/-- 42_tile_store R101: the `t`-th call of `TS.NEXTX` since allocation returns row `t mod AW` at column
`(t div AW)·AW mod XCAP`: `AW` consecutive calls fill one chunk, the next ones the next columns. (`XCAP` is
the number of columns allocated, log entry 22; a leftover above `AW` pads by 0, log entry 36.) -/
def Obligations.NextXFillsChunksInOrder : Prop :=
  ∀ (s : State) (n : Word) (a b c d : BitVec 8) (t xcap : Nat), 0 < s.par.aw →
    xcap = n.toNat + (if b.toNat = 0 then 0 else s.par.aw - b.toNat) + 2 * s.par.h * (s.par.pd + 1) →
    xcap ≠ 0 →
    ∃ u, nextX (afterCalls nextX t { s with ts := s.ts.alloc s.par n a b c d }) =
      .ok (.x (t % s.par.aw) (t / s.par.aw * s.par.aw % xcap)) u

/-- 42_tile_store R104, R106: `TS.COMPUTEZ` completes; `z[i][j]` is the Y element followed by one fused step
per `k` in ascending order on `x[i][(x_offs + k) mod XCAP]` and `w[k][j]`; `x_offs` advances by
`n + xpad` modulo `XCAP`, `y_offs` toggles; nothing else changes. Taking `XCAP` from the columns of the buffer
is the model's reading (log entry 22); that the operation runs by itself in every `sch.state`, R104 having it
invoked only at the end of the last COMPUTING hypercycle, is its choice (log entry 37). -/
def Obligations.ComputezCompletes : Prop :=
  ∀ (s : State) (j : Job) (x w : TileBuf),
    s.fault = none → s.job = some j → s.ts.x = some x → s.ts.w = some w →
    ∃ t, exec .tsComputez s = .next t ∧
      BufShape t.ts.z s.par.aw s.par.aw ∧
      (∀ i c, i < s.par.aw → c < s.par.aw →
        t.ts.z.elem i c =
          (List.range j.n.toNat).foldl
            (fun acc k => fmaElem s.par (x.elem i ((s.ts.xOffs + k) % s.ts.xCap)) (w.elem k c) acc)
            (s.ts.y.elem (i + s.ts.yOffs) c)) ∧
      t = { s with ts := { s.ts with
        z := t.ts.z
        xOffs := (s.ts.xOffs + (j.n.toNat + j.xpad)) % s.ts.xCap
        yOffs := if s.ts.yOffs = 0 then s.par.aw else 0 } }

/-- 42_tile_store R108: if the Y element, or an X or W element of the sum, has no value, the Z element has no
value. That "no value" is an option type (00_scope R10) and `XCAP` the columns of the buffer is the model's
reading (log entries 3, 22); the operation by itself in every `sch.state` is log entry 37. -/
def Obligations.NoValuePropagatesToZ : Prop :=
  ∀ (s t : State) (j : Job) (x w : TileBuf) (i c : Nat),
    s.fault = none → s.job = some j → s.ts.x = some x → s.ts.w = some w → exec .tsComputez s = .next t →
    i < s.par.aw → c < s.par.aw →
    (s.ts.y.elem (i + s.ts.yOffs) c = none ∨
      ∃ k, k < j.n.toNat ∧ (x.elem i ((s.ts.xOffs + k) % s.ts.xCap) = none ∨ w.elem k c = none)) →
    t.ts.z.elem i c = none

/-- 41_stride_generator R93 with the positions of 42_tile_store R100 to R103: a line written to a slot that
exists is read back from it, whatever its elements. (An X row is a ring of at least `AW` columns.) -/
def Obligations.SlotReadsBackTheLineWritten : Prop :=
  ∀ (p : Params) (ts : TileStore) (sl : Slot) (old line : List TileElem),
    line.length = p.aw → ts.readSlot p sl = some old →
    (∀ b ∈ ts.x, ∀ r ∈ b, p.aw ≤ r.length ∧ 0 < r.length) →
    (ts.writeSlot sl line).readSlot p sl = some line

/-- 41_stride_generator R93, 20_memory R38, R39: `bytes_to_line` is the inverse of `line_to_bytes` on every
line of elements of `8·EB` bits, elements without value included. -/
def Obligations.LineAndBytesAreInverse : Prop :=
  ∀ (eb : Nat) (line : List TileElem), eb = 1 ∨ eb = 2 ∨ eb = 4 →
    (∀ e ∈ line, ∀ v ∈ e, v.toNat < 2 ^ (8 * eb)) →
    (lineToBytes eb line).length = line.length * eb ∧
    bytesToLine line.length eb (lineToBytes eb line) = line

/-- An element pattern has `8·EB` bits (00_scope R8, 10_state R19; log entry 31): the kernel's fused step never
leaves the format, for every numerics record and all operands. -/
def Obligations.FusedStepStaysInTheFormat : Prop :=
  ∀ (p : Params) (a b c : Elem), p.eb = 1 ∨ p.eb = 2 ∨ p.eb = 4 → (p.fma a b c).toNat < 2 ^ (8 * p.eb)

/-! ## MKSTROBE -/

/-- 44_strobe R143, R145: `MKSTROBE(L, W)` completes for `W` of 1, 2, 4 with `2^(L·W) - 1` cut to `LB` bits,
which for a leftover count below `AW` at the block's own width cuts nothing. Another width "has no base mask;
it cannot arise" (R145); that it is the refusal `noBaseMask` is the model's choice (log entry 17). So is the cut for
`L >= AW`, outside R143's operand range, where its closed form and its slice disagree (log entry 38). -/
def Obligations.MkstrobeCompletes : Prop :=
  ∀ (s : State) (count width : Nat), s.fault = none →
    (width = 1 ∨ width = 2 ∨ width = 4 →
      exec (.mkstrobe count width) s =
        .next { s with result := .strobe ((2 ^ (count * width) - 1) % 2 ^ (s.par.aw * s.par.eb)) }) ∧
    (count < s.par.aw → width = s.par.eb →
      (2 ^ (count * width) - 1) % 2 ^ (s.par.aw * s.par.eb) = 2 ^ (count * width) - 1) ∧
    (width ≠ 1 → width ≠ 2 → width ≠ 4 → exec (.mkstrobe count width) s = .refused .noBaseMask)

/-- 44_strobe R146: a leftover strobe built from `L` valid elements has exactly `L × W` contiguous set bits
starting at bit 0, and a store under it writes elements `0..L-1` of the line and leaves the bytes of the
others, and all other memory, untouched (20_memory R34, R38; the byte order within an element is R39's, the
spec's own choice, 92 D5). -/
def Obligations.StrobeHasContiguousBits : Prop :=
  ∀ (p : Params) (count : Nat), p.eb = 1 ∨ p.eb = 2 ∨ p.eb = 4 → count < p.aw →
    ∃ m, mkStrobe p count p.eb = some m ∧ (∀ q, m.testBit q = decide (q < count * p.eb)) ∧
      ∀ (mem : Memory) (addr : Word) (row : List TileElem),
        Memory.wf mem → row.length = p.aw → p.aw * p.eb ≤ 2 ^ 32 →
        (∀ k t, k < count → t < p.eb →
          Memory.read (Memory.writeBytes mem addr m (lineToBytes p.eb row))
              ((addr.toNat + (k * p.eb + t)) % 2 ^ 32) =
            ((row[k]?).join).map (fun v => v.extractLsb' (8 * t) 8)) ∧
        (∀ a, (∀ q, q < count * p.eb → a ≠ (addr.toNat + q) % 2 ^ 32) →
          Memory.read (Memory.writeBytes mem addr m (lineToBytes p.eb row)) a = Memory.read mem a)

/-! ## Stream steps -/

/-- 43_scheduler R133, R135: `STEP.NONE` costs 1 and changes nothing; a step of a stream that is done is a
bubble charged to that stream (41_stride_generator R92; the pseudocode of R136 to R139), its tile-store cursor
does not move. All five complete. That they do so by themselves in every `sch.state` is the model's choice (log
entry 37). -/
def Obligations.BubbleStepsComplete : Prop :=
  ∀ s : State, s.fault = none →
    exec .stepNone s = .next { s with result := .latency 1 } ∧
    (s.sg.w.doneCnt = s.sg.w.totLen → exec .stepW s = .next { s with
      sg := { s.sg with w := { s.sg.w with latCum := s.sg.w.latCum + 1 } }, result := .latency 1 }) ∧
    (s.sg.x.doneCnt = s.sg.x.totLen → exec .stepX s = .next { s with
      sg := { s.sg with x := { s.sg.x with latCum := s.sg.x.latCum + 1 } }, result := .latency 1 }) ∧
    (s.sg.y.doneCnt = s.sg.y.totLen → exec .stepY s = .next { s with
      sg := { s.sg with y := { s.sg.y with latCum := s.sg.y.latCum + 1 } }, result := .latency 1 }) ∧
    (s.sg.z.doneCnt = s.sg.z.totLen → exec .stepZ s = .next { s with
      sg := { s.sg with z := { s.sg.z with latCum := s.sg.z.latCum + 1 } }, result := .latency 1 })

/-- 43_scheduler R136, R137, R138: a W, X or Y step of a stream that is not done reads one line into the next
slot of its kind and advances the cursor; it returns the memory's latency plus 1; nothing else changes. Byte `q` of
the line is the content at `u32(addr + q)` (20_memory R33; 41_stride_generator R87, R93). Taking `WCAP` and `XCAP` from
the buffers is the model's reading (log entry 22); that the steps run by themselves in every `sch.state` is its
choice (log entry 37). -/
def Obligations.LoadStepsComplete : Prop :=
  ∀ (s s1 : State) (l : Nat), s.fault = none → nextAnswer s = (⟨.success, l⟩, s1) →
    (∀ b, s.ts.w = some b → s.ts.wCnt < b.length → s.sg.w.doneCnt ≠ s.sg.w.totLen →
      exec .stepW s = .next { s with
        memAnswers := s1.memAnswers, memDraws := s1.memDraws
        ts := { s.ts with
          w := some (b.set s.ts.wCnt (bytesToLine s.par.aw s.par.eb
            ((List.range (s.par.aw * s.par.eb)).map
              (fun q => Memory.read s.mem ((s.sg.w.addr.toNat + q) % 2 ^ 32)))))
          wCnt := (s.ts.wCnt + 1) % b.length }
        sg := { s.sg with w := s.sg.w.afterStep l }, result := .latency (l + 1) }) ∧
    (∀ row b, s.ts.x = some (row :: b) → row.length ≠ 0 → s.ts.xI < (row :: b).length →
      s.sg.x.doneCnt ≠ s.sg.x.totLen →
      exec .stepX s = .next { s with
        memAnswers := s1.memAnswers, memDraws := s1.memDraws
        ts := { s.ts with
          x := some ((row :: b).modify s.ts.xI (fun r => ringSet r s.ts.xC (bytesToLine s.par.aw s.par.eb
            ((List.range (s.par.aw * s.par.eb)).map
              (fun q => Memory.read s.mem ((s.sg.x.addr.toNat + q) % 2 ^ 32))))))
          xI := if s.ts.xI + 1 = s.par.aw then 0 else s.ts.xI + 1
          xC := if s.ts.xI + 1 = s.par.aw then (s.ts.xC + s.par.aw) % row.length else s.ts.xC }
        sg := { s.sg with x := s.sg.x.afterStep l }, result := .latency (l + 1) }) ∧
    (s.ts.yOffs + s.ts.yCnt < s.ts.y.length → s.sg.y.doneCnt ≠ s.sg.y.totLen →
      exec .stepY s = .next { s with
        memAnswers := s1.memAnswers, memDraws := s1.memDraws
        ts := { s.ts with
          y := s.ts.y.set (s.ts.yOffs + s.ts.yCnt) (bytesToLine s.par.aw s.par.eb
            ((List.range (s.par.aw * s.par.eb)).map
              (fun q => Memory.read s.mem ((s.sg.y.addr.toNat + q) % 2 ^ 32))))
          yCnt := (s.ts.yCnt + 1) % s.par.aw }
        sg := { s.sg with y := s.sg.y.afterStep l }, result := .latency (l + 1) })

/-- 43_scheduler R139: a Z step of a stream that is not done writes the next Z row at the Z address under
`sch.z_strb` and advances the cursor; every byte the strobe does not enable is unchanged. That the step runs by
itself in every `sch.state` is the model's choice (log entry 37). -/
def Obligations.StoreStepCompletes : Prop :=
  ∀ (s s1 : State) (l : Nat) (line : List TileElem), s.fault = none →
    nextAnswer s = (⟨.success, l⟩, s1) → s.sg.z.doneCnt ≠ s.sg.z.totLen → s.ts.z[s.ts.zCnt]? = some line →
    ∃ m, exec .stepZ s = .next { s with
        memAnswers := s1.memAnswers, memDraws := s1.memDraws, mem := m
        ts := { s.ts with zCnt := (s.ts.zCnt + 1) % s.par.aw }
        sg := { s.sg with z := s.sg.z.afterStep l }, result := .latency (l + 1) } ∧
      m = Memory.writeBytes s.mem s.sg.z.addr s.sch.zStrb (lineToBytes s.par.eb line) ∧
      (∀ a, (∀ q, q < s.par.eb * line.length → s.sch.zStrb.testBit q = true →
          a ≠ (s.sg.z.addr.toNat + q) % 2 ^ 32) →
        Memory.read m a = Memory.read s.mem a)

/-! ## The scheduler -/

/-- 43_scheduler R117, R132: FSM.IDLE keeps all state; where the completion continuation is pending,
FSM.FINISHED and SCHED.COMPLETE free the tile store, raise `irq` (or leave it at 1), leave all 39 registers
and the job copy without value, and return to IDLE; streams, counters, flags, `z_strb`, latencies and memory
keep their values. That FSM.IDLE, which "has no step", answers the same state is the model's choice (log entry
14), and so is that FSM.FINISHED and SCHED.COMPLETE each do the whole of R132 (log entry 15). -/
def Obligations.CompletionReturnsToIdle : Prop :=
  ∀ s : State, s.fault = none →
    exec .fsmIdle s = .next s ∧
    (s.donePending = true → ∀ i, i = .fsmFinished ∨ i = .schedComplete →
      exec i s = .next { s with
        donePending := false, irq := true, cfg := JobConfig.unwritten, job := none
        ts := TileStore.free s.par, sch := { s.sch with state := stIdle } })

/-- 43_scheduler R121: a STARTING micro-step is a Y step for the first `AW` and an X step for the others; it
then counts, and the last of the `3·AW` leaves the first position of COMPUTING. It completes in every state of
a running block whose memory, where the micro-step makes an access (R133), answers with success. -/
def Obligations.StartingMicroStepCompletes : Prop :=
  ∀ s : State, BlockInv s → s.fault = none → s.sch.state = stStarting → AccessSucceeds s →
    ∃ u, exec (if s.sch.pre < s.par.aw then .stepY else .stepX) s = .next u ∧ u.fault = none ∧
      exec .fsmStarting s = .next { u with sch :=
        if s.sch.pre + 1 = 3 * s.par.aw then
          { s.sch with pre := s.sch.pre + 1, state := stComputing, hyper := 0, cyc := 0, sub := 0 }
        else { s.sch with pre := s.sch.pre + 1 } }

/-- 43_scheduler R123 to R126: a COMPUTING micro-step is a W step on subcycle 0, an X step on the payload
subcycles of an XLOAD cycle of hypercycle 0, else a bubble; then the position advances; at the end of the last
hypercycle `TS.COMPUTEZ` and the bookkeeping follow and the state becomes STORING. It completes in every state
of a running block whose memory, where the micro-step makes an access (R133), answers with success. -/
def Obligations.ComputingMicroStepCompletes : Prop :=
  ∀ (s : State) (j : Job), BlockInv s → s.fault = none → s.sch.state = stComputing → s.job = some j →
    AccessSucceeds s →
    ∃ u t, exec (if s.sch.sub = 0 then .stepW
        else if s.sch.sub ≤ s.par.pr ∧ s.sch.hyper = 0 ∧ s.sch.cyc ∈ s.par.xload then .stepX
        else .stepNone) s = .next u ∧
      u.fault = none ∧ exec .fsmComputing s = .next t ∧ t.fault = none ∧
      (s.sch.sub + 1 ≠ s.par.pd + 1 → t = { u with sch := { s.sch with sub := s.sch.sub + 1 } }) ∧
      (s.sch.sub + 1 = s.par.pd + 1 → s.sch.cyc + 1 ≠ s.par.h →
        t = { u with sch := { s.sch with sub := 0, cyc := s.sch.cyc + 1 } }) ∧
      (s.sch.sub + 1 = s.par.pd + 1 → s.sch.cyc + 1 = s.par.h → s.sch.hyper.toNat + 1 ≠ j.nh →
        t = { u with sch := { s.sch with sub := 0, cyc := 0, hyper := s.sch.hyper + 1 } }) ∧
      (s.sch.sub + 1 = s.par.pd + 1 → s.sch.cyc + 1 = s.par.h → s.sch.hyper.toNat + 1 = j.nh →
        ∃ v b, exec .tsComputez u = .next v ∧
          storeBookkeeping { v with sch := { s.sch with sub := 0, cyc := 0 } } = .ok () b ∧
          t = { b with sch := { b.sch with state := stStoring, hyper := 0 } })

/-- 43_scheduler R123, R125, R127, R130: a STORING micro-step is a W step on subcycle 0; on the payload
subcycles a Z step in cycle 0, a Y step in cycle 1, an X step in the penultimate cycle, in this priority; else
a bubble; then the position advances, and at the end of the hypercycle the state becomes FINISHED when the job
is done and COMPUTING otherwise. It completes in every state of a running block whose memory, where the
micro-step makes an access (R133), answers with success. -/
def Obligations.StoringMicroStepCompletes : Prop :=
  ∀ s : State, BlockInv s → s.fault = none → s.sch.state = stStoring → AccessSucceeds s →
    ∃ u, exec (if s.sch.sub = 0 then .stepW
        else if s.par.pr < s.sch.sub then .stepNone
        else if s.sch.cyc = 0 then .stepZ
        else if s.sch.cyc = 1 then .stepY
        else if s.sch.cyc + 2 = s.par.h then .stepX
        else .stepNone) s = .next u ∧
      u.fault = none ∧
      exec .fsmStoring s = .next { u with sch :=
        if s.sch.sub + 1 ≠ s.par.pd + 1 then { s.sch with sub := s.sch.sub + 1 }
        else if s.sch.cyc + 1 ≠ s.par.h then { s.sch with sub := 0, cyc := s.sch.cyc + 1 }
        else if s.sch.jobDone = true then { s.sch with sub := 0, cyc := 0, state := stFinished }
        else { s.sch with sub := 0, cyc := 0, state := stComputing, hyper := 0 } }

/-- 43_scheduler R128: the bookkeeping of a pass: the W-column count, on its wrap the X-row count and the
strobe of the last W-column tile (leftover or full), on the last X-row tile `job_done`, and `final_row` if an
X-row leftover is configured; in every other pass the full strobe. The leftover strobe is 44_strobe R143's. That
the two 16-bit counts wrap modulo 2^16, in states no run reaches, is the model's reading (log entry 28). -/
def Obligations.PassBookkeeping : Prop :=
  ∀ (s : State) (j : Job), s.job = some j → s.par.eb = 1 ∨ s.par.eb = 2 ∨ s.par.eb = 4 →
    j.wColLo.toNat < s.par.aw →
    (s.sch.wColsIters + 1 ≠ j.wCols →
      storeBookkeeping s = .ok () { s with sch := { s.sch with
        wColsIters := s.sch.wColsIters + 1, zStrb := 2 ^ (s.par.aw * s.par.eb) - 1 } }) ∧
    (s.sch.wColsIters + 1 = j.wCols →
      storeBookkeeping s = .ok () { s with sch := { s.sch with
        wColsIters := 0, xRowsIters := s.sch.xRowsIters + 1
        zStrb := if j.wColLo = 0 then 2 ^ (s.par.aw * s.par.eb) - 1
          else 2 ^ (j.wColLo.toNat * s.par.eb) - 1
        jobDone := if s.sch.xRowsIters + 1 = j.xRows then true else s.sch.jobDone
        finalRow := if s.sch.xRowsIters + 1 = j.xRows ∧ j.xRowLo ≠ 0 then true
          else s.sch.finalRow } })

/-- 43_scheduler R118, R131: an invocation runs one micro-step, of latency at least 1, adds that latency to
both accumulators (the invocation's from 0), and schedules exactly one continuation: completion in FINISHED,
else main. It does so in every state of a running block whose memory, where the micro-step makes an access (R133),
answers with success. Where the memory answers that access otherwise, `MEM_STATUS` (60_exceptions R150) "ends the
invocation at once with nothing scheduled" (R118): the micro-step, and the invocation with `lat_acc` 0 and `lat_total`
kept, leave what the stream step leaves (statement BadMemoryStatusIsFatal), the position and `sch.state` as they
were, and no continuation pending. That the loop runs exactly one micro-step is R118's own inference, marked there as
derived (log entry 11). -/
def Obligations.InvocationCompletes : Prop :=
  ∀ s : State, BlockInv s → s.fault = none → s.mainPending = true →
    (AccessSucceeds s →
      ∃ u lat,
        exec (microInstr s) { s with mainPending := false, sch := { s.sch with latAcc := 0 } } = .next u ∧
        u.result = .latency lat ∧ 1 ≤ lat ∧ u.fault = none ∧
        exec .schedInvoke s = .next { u with
          result := s.result
          sch := { u.sch with latAcc := lat, latTotal := s.sch.latTotal + lat }
          mainPending := decide (u.sch.state ≠ stFinished)
          donePending := decide (u.sch.state = stFinished) }) ∧
    (∀ (str : Stream) (s1 : State) (c l : Nat), turn s = some str →
      (s.sg.desc str).doneCnt ≠ (s.sg.desc str).totLen → nextAnswer s = (⟨.other c, l⟩, s1) →
      ∃ u, exec (turnStep (some str)) s = .next u ∧
        u.fault = some (.memStatus str (s.sg.desc str).addr (.other c)) ∧ u.sch = s.sch ∧
        u.donePending = false ∧ exec (microInstr s) s = .next u ∧
        exec .schedInvoke s =
          .next { u with mainPending := false, sch := { s.sch with latAcc := 0 } })

/-- 43_scheduler R116, R117: at the boundary, and but for reset, the state register takes no edge but those
of the graph, and IDLE is left by `TRIGGER` alone. -/
def Obligations.StateGraphHasNoOtherEdge : Prop :=
  ∀ s t : State, BlockInv s → s.fault = none → s.boundaryOnly → step s = .next t →
    (∃ rest, s.inbox = .reset :: rest) ∨
    t.sch.state = s.sch.state ∨
    (s.sch.state = stIdle ∧ t.sch.state = stStarting ∧
      ∃ word rest, s.inbox = .word (.hc word) :: rest ∧ hcOffset word = 0x2C) ∨
    (s.sch.state = stStarting ∧ t.sch.state = stComputing) ∨
    (s.sch.state = stComputing ∧ t.sch.state = stStoring) ∨
    (s.sch.state = stStoring ∧ (t.sch.state = stComputing ∨ t.sch.state = stFinished)) ∨
    (s.sch.state = stFinished ∧ t.sch.state = stIdle)

/-- 60_exceptions R155: over all operations, `irq` rises in the completion continuation alone and falls by
`IRQCLR` alone; reset lowers it too. That FSM.FINISHED does the whole of 43_scheduler R132 too, and that neither
operation acts with nothing pending, is the model's reading (log entries 13, 15). -/
def Obligations.InterruptRisesAndFallsByRule : Prop :=
  (∀ (i : Instr) (s t : State), exec i s = .next t → t.irq ≠ s.irq →
    (t.irq = true ∧ (i = .fsmFinished ∨ i = .schedComplete) ∧ s.donePending = true) ∨
    (t.irq = false ∧ ∃ d, i = .irqclr d)) ∧
  (∀ s : State, s.fault = none → s.donePending = true →
    ∃ t, exec .schedComplete s = .next t ∧ t.irq = true) ∧
  (∀ (s : State) (rest : List Input), s.inbox = .reset :: rest → ∃ t, step s = .next t ∧ t.irq = false)

/-! ## Invariants of the whole machine -/

/-- Every invariant below holds after reset, for every legal parameter set. -/
def Obligations.InvariantsHoldAtReset : Prop :=
  ∀ p : Params, LegalParams p →
    BlockInv (State.initial p) ∧ StreamsInv (State.initial p) ∧ Memory.wf (State.initial p).mem ∧
      (State.initial p).boundaryOnly

/-- The invariant from which rule R30's clauses follow is kept by every step of a block whose environment acts
at its boundary (10_state R19 to R22, R24, R30). -/
def Obligations.BoundaryStepKeepsBlockInvariant : Prop :=
  ∀ s t : State, BlockInv s → s.boundaryOnly → step s = .next t → BlockInv t ∧ t.boundaryOnly

/-- 10_state R30: clauses (a) to (g) hold in every state of the invariant "when `fault` is none". The spec
marks them as derived from its rules R19 to R24 and 43 R116 to R131. -/
def Obligations.RuleR30FollowsFromTheInvariant : Prop :=
  ∀ s : State, BlockInv s → s.fault = none → RuleR30 s

/-- No refusal is met at the boundary: from a state of the invariant every step answers a next state, but for
the one stop the spec describes, a recorded fatal condition with nothing queued (10_state R26; log entry 12). -/
def Obligations.BoundaryStepAlwaysAnswers : Prop :=
  ∀ s : State, BlockInv s → s.boundaryOnly →
    (∃ t, step s = .next t) ∨
      (s.inbox = [] ∧ ∃ f, s.fault = some f ∧ step s = .fault (.blockStopped f))

/-- 60_exceptions R148, R149, R151: BAD_STATE, BAD_SELECTOR and DOUBLE_SCHEDULE (codes 1, 2, 4) are never
raised at the boundary. The spec marks this as derived. -/
def Obligations.InternalFatalsAreUnreachable : Prop :=
  ∀ (s t : State) (f : Fatal), BlockInv s → s.boundaryOnly → s.fault = none → step s = .next t →
    t.fault = some f → fatalCode f ≠ 1 ∧ fatalCode f ≠ 2 ∧ fatalCode f ≠ 4

/-- 43_scheduler R140: a job takes `3·AW + P·(nh + 1)·NCYC·NSUB` micro-steps, `P = x_rows × w_cols`: at its
start so many remain, every invocation that raises nothing takes one off, and none remain exactly in FINISHED.
The spec marks the count as derived from 43 R121 to R130. -/
def Obligations.JobLengthIsRuleR140 : Prop :=
  ∀ (s t : State) (j : Job), BlockInv s → s.fault = none → s.job = some j →
    (s.sch.state = stStarting → s.sch.pre = 0 →
      remainingSteps s.par j s.sch =
        3 * s.par.aw + j.xRows.toNat * j.wCols.toNat * ((j.nh + 1) * (s.par.h * (s.par.pd + 1)))) ∧
    (s.mainPending = true → exec .schedInvoke s = .next t → t.fault = none →
      t.job = some j ∧ remainingSteps t.par j t.sch + 1 = remainingSteps s.par j s.sch ∧
      (remainingSteps t.par j t.sch = 0 ↔ t.sch.state = stFinished))
end

