-- ==== Sys2Proof/Laws/State.lean ====
section
/-! SUPPORT. One lemma per field per named update of the state, true by `rfl`, and the laws of the register
files, so that no proof unfolds an update. -/

namespace Sys2Proof.Machine

@[simp] theorem State.setCfg_cfg (s : State) (v : JobConfig) : (s.setCfg v).cfg = v := rfl
@[simp] theorem State.setCfg_job (s : State) (v : JobConfig) : (s.setCfg v).job = s.job := rfl
@[simp] theorem State.setCfg_sg (s : State) (v : JobConfig) : (s.setCfg v).sg = s.sg := rfl
@[simp] theorem State.setCfg_ts (s : State) (v : JobConfig) : (s.setCfg v).ts = s.ts := rfl
@[simp] theorem State.setCfg_sch (s : State) (v : JobConfig) : (s.setCfg v).sch = s.sch := rfl
@[simp] theorem State.setCfg_irq (s : State) (v : JobConfig) : (s.setCfg v).irq = s.irq := rfl
@[simp] theorem State.setCfg_mainPending (s : State) (v : JobConfig) : (s.setCfg v).mainPending = s.mainPending := rfl
@[simp] theorem State.setCfg_donePending (s : State) (v : JobConfig) : (s.setCfg v).donePending = s.donePending := rfl
@[simp] theorem State.setCfg_fault (s : State) (v : JobConfig) : (s.setCfg v).fault = s.fault := rfl
@[simp] theorem State.setCfg_par (s : State) (v : JobConfig) : (s.setCfg v).par = s.par := rfl
@[simp] theorem State.setCfg_mem (s : State) (v : JobConfig) : (s.setCfg v).mem = s.mem := rfl
@[simp] theorem State.setCfg_inbox (s : State) (v : JobConfig) : (s.setCfg v).inbox = s.inbox := rfl
@[simp] theorem State.setCfg_memAnswers (s : State) (v : JobConfig) : (s.setCfg v).memAnswers = s.memAnswers := rfl
@[simp] theorem State.setCfg_memDraws (s : State) (v : JobConfig) : (s.setCfg v).memDraws = s.memDraws := rfl
@[simp] theorem State.setCfg_result (s : State) (v : JobConfig) : (s.setCfg v).result = s.result := rfl

@[simp] theorem State.setJob_cfg (s : State) (v : Option Job) : (s.setJob v).cfg = s.cfg := rfl
@[simp] theorem State.setJob_job (s : State) (v : Option Job) : (s.setJob v).job = v := rfl
@[simp] theorem State.setJob_sg (s : State) (v : Option Job) : (s.setJob v).sg = s.sg := rfl
@[simp] theorem State.setJob_ts (s : State) (v : Option Job) : (s.setJob v).ts = s.ts := rfl
@[simp] theorem State.setJob_sch (s : State) (v : Option Job) : (s.setJob v).sch = s.sch := rfl
@[simp] theorem State.setJob_irq (s : State) (v : Option Job) : (s.setJob v).irq = s.irq := rfl
@[simp] theorem State.setJob_mainPending (s : State) (v : Option Job) : (s.setJob v).mainPending = s.mainPending := rfl
@[simp] theorem State.setJob_donePending (s : State) (v : Option Job) : (s.setJob v).donePending = s.donePending := rfl
@[simp] theorem State.setJob_fault (s : State) (v : Option Job) : (s.setJob v).fault = s.fault := rfl
@[simp] theorem State.setJob_par (s : State) (v : Option Job) : (s.setJob v).par = s.par := rfl
@[simp] theorem State.setJob_mem (s : State) (v : Option Job) : (s.setJob v).mem = s.mem := rfl
@[simp] theorem State.setJob_inbox (s : State) (v : Option Job) : (s.setJob v).inbox = s.inbox := rfl
@[simp] theorem State.setJob_memAnswers (s : State) (v : Option Job) : (s.setJob v).memAnswers = s.memAnswers := rfl
@[simp] theorem State.setJob_memDraws (s : State) (v : Option Job) : (s.setJob v).memDraws = s.memDraws := rfl
@[simp] theorem State.setJob_result (s : State) (v : Option Job) : (s.setJob v).result = s.result := rfl

@[simp] theorem State.setSg_cfg (s : State) (v : Streams) : (s.setSg v).cfg = s.cfg := rfl
@[simp] theorem State.setSg_job (s : State) (v : Streams) : (s.setSg v).job = s.job := rfl
@[simp] theorem State.setSg_sg (s : State) (v : Streams) : (s.setSg v).sg = v := rfl
@[simp] theorem State.setSg_ts (s : State) (v : Streams) : (s.setSg v).ts = s.ts := rfl
@[simp] theorem State.setSg_sch (s : State) (v : Streams) : (s.setSg v).sch = s.sch := rfl
@[simp] theorem State.setSg_irq (s : State) (v : Streams) : (s.setSg v).irq = s.irq := rfl
@[simp] theorem State.setSg_mainPending (s : State) (v : Streams) : (s.setSg v).mainPending = s.mainPending := rfl
@[simp] theorem State.setSg_donePending (s : State) (v : Streams) : (s.setSg v).donePending = s.donePending := rfl
@[simp] theorem State.setSg_fault (s : State) (v : Streams) : (s.setSg v).fault = s.fault := rfl
@[simp] theorem State.setSg_par (s : State) (v : Streams) : (s.setSg v).par = s.par := rfl
@[simp] theorem State.setSg_mem (s : State) (v : Streams) : (s.setSg v).mem = s.mem := rfl
@[simp] theorem State.setSg_inbox (s : State) (v : Streams) : (s.setSg v).inbox = s.inbox := rfl
@[simp] theorem State.setSg_memAnswers (s : State) (v : Streams) : (s.setSg v).memAnswers = s.memAnswers := rfl
@[simp] theorem State.setSg_memDraws (s : State) (v : Streams) : (s.setSg v).memDraws = s.memDraws := rfl
@[simp] theorem State.setSg_result (s : State) (v : Streams) : (s.setSg v).result = s.result := rfl

@[simp] theorem State.setTs_cfg (s : State) (v : TileStore) : (s.setTs v).cfg = s.cfg := rfl
@[simp] theorem State.setTs_job (s : State) (v : TileStore) : (s.setTs v).job = s.job := rfl
@[simp] theorem State.setTs_sg (s : State) (v : TileStore) : (s.setTs v).sg = s.sg := rfl
@[simp] theorem State.setTs_ts (s : State) (v : TileStore) : (s.setTs v).ts = v := rfl
@[simp] theorem State.setTs_sch (s : State) (v : TileStore) : (s.setTs v).sch = s.sch := rfl
@[simp] theorem State.setTs_irq (s : State) (v : TileStore) : (s.setTs v).irq = s.irq := rfl
@[simp] theorem State.setTs_mainPending (s : State) (v : TileStore) : (s.setTs v).mainPending = s.mainPending := rfl
@[simp] theorem State.setTs_donePending (s : State) (v : TileStore) : (s.setTs v).donePending = s.donePending := rfl
@[simp] theorem State.setTs_fault (s : State) (v : TileStore) : (s.setTs v).fault = s.fault := rfl
@[simp] theorem State.setTs_par (s : State) (v : TileStore) : (s.setTs v).par = s.par := rfl
@[simp] theorem State.setTs_mem (s : State) (v : TileStore) : (s.setTs v).mem = s.mem := rfl
@[simp] theorem State.setTs_inbox (s : State) (v : TileStore) : (s.setTs v).inbox = s.inbox := rfl
@[simp] theorem State.setTs_memAnswers (s : State) (v : TileStore) : (s.setTs v).memAnswers = s.memAnswers := rfl
@[simp] theorem State.setTs_memDraws (s : State) (v : TileStore) : (s.setTs v).memDraws = s.memDraws := rfl
@[simp] theorem State.setTs_result (s : State) (v : TileStore) : (s.setTs v).result = s.result := rfl

@[simp] theorem State.setSch_cfg (s : State) (v : Sched) : (s.setSch v).cfg = s.cfg := rfl
@[simp] theorem State.setSch_job (s : State) (v : Sched) : (s.setSch v).job = s.job := rfl
@[simp] theorem State.setSch_sg (s : State) (v : Sched) : (s.setSch v).sg = s.sg := rfl
@[simp] theorem State.setSch_ts (s : State) (v : Sched) : (s.setSch v).ts = s.ts := rfl
@[simp] theorem State.setSch_sch (s : State) (v : Sched) : (s.setSch v).sch = v := rfl
@[simp] theorem State.setSch_irq (s : State) (v : Sched) : (s.setSch v).irq = s.irq := rfl
@[simp] theorem State.setSch_mainPending (s : State) (v : Sched) : (s.setSch v).mainPending = s.mainPending := rfl
@[simp] theorem State.setSch_donePending (s : State) (v : Sched) : (s.setSch v).donePending = s.donePending := rfl
@[simp] theorem State.setSch_fault (s : State) (v : Sched) : (s.setSch v).fault = s.fault := rfl
@[simp] theorem State.setSch_par (s : State) (v : Sched) : (s.setSch v).par = s.par := rfl
@[simp] theorem State.setSch_mem (s : State) (v : Sched) : (s.setSch v).mem = s.mem := rfl
@[simp] theorem State.setSch_inbox (s : State) (v : Sched) : (s.setSch v).inbox = s.inbox := rfl
@[simp] theorem State.setSch_memAnswers (s : State) (v : Sched) : (s.setSch v).memAnswers = s.memAnswers := rfl
@[simp] theorem State.setSch_memDraws (s : State) (v : Sched) : (s.setSch v).memDraws = s.memDraws := rfl
@[simp] theorem State.setSch_result (s : State) (v : Sched) : (s.setSch v).result = s.result := rfl

@[simp] theorem State.setIrq_cfg (s : State) (v : Bool) : (s.setIrq v).cfg = s.cfg := rfl
@[simp] theorem State.setIrq_job (s : State) (v : Bool) : (s.setIrq v).job = s.job := rfl
@[simp] theorem State.setIrq_sg (s : State) (v : Bool) : (s.setIrq v).sg = s.sg := rfl
@[simp] theorem State.setIrq_ts (s : State) (v : Bool) : (s.setIrq v).ts = s.ts := rfl
@[simp] theorem State.setIrq_sch (s : State) (v : Bool) : (s.setIrq v).sch = s.sch := rfl
@[simp] theorem State.setIrq_irq (s : State) (v : Bool) : (s.setIrq v).irq = v := rfl
@[simp] theorem State.setIrq_mainPending (s : State) (v : Bool) : (s.setIrq v).mainPending = s.mainPending := rfl
@[simp] theorem State.setIrq_donePending (s : State) (v : Bool) : (s.setIrq v).donePending = s.donePending := rfl
@[simp] theorem State.setIrq_fault (s : State) (v : Bool) : (s.setIrq v).fault = s.fault := rfl
@[simp] theorem State.setIrq_par (s : State) (v : Bool) : (s.setIrq v).par = s.par := rfl
@[simp] theorem State.setIrq_mem (s : State) (v : Bool) : (s.setIrq v).mem = s.mem := rfl
@[simp] theorem State.setIrq_inbox (s : State) (v : Bool) : (s.setIrq v).inbox = s.inbox := rfl
@[simp] theorem State.setIrq_memAnswers (s : State) (v : Bool) : (s.setIrq v).memAnswers = s.memAnswers := rfl
@[simp] theorem State.setIrq_memDraws (s : State) (v : Bool) : (s.setIrq v).memDraws = s.memDraws := rfl
@[simp] theorem State.setIrq_result (s : State) (v : Bool) : (s.setIrq v).result = s.result := rfl

@[simp] theorem State.setMainPending_cfg (s : State) (v : Bool) : (s.setMainPending v).cfg = s.cfg := rfl
@[simp] theorem State.setMainPending_job (s : State) (v : Bool) : (s.setMainPending v).job = s.job := rfl
@[simp] theorem State.setMainPending_sg (s : State) (v : Bool) : (s.setMainPending v).sg = s.sg := rfl
@[simp] theorem State.setMainPending_ts (s : State) (v : Bool) : (s.setMainPending v).ts = s.ts := rfl
@[simp] theorem State.setMainPending_sch (s : State) (v : Bool) : (s.setMainPending v).sch = s.sch := rfl
@[simp] theorem State.setMainPending_irq (s : State) (v : Bool) : (s.setMainPending v).irq = s.irq := rfl
@[simp] theorem State.setMainPending_mainPending (s : State) (v : Bool) : (s.setMainPending v).mainPending = v := rfl
@[simp] theorem State.setMainPending_donePending (s : State) (v : Bool) : (s.setMainPending v).donePending = s.donePending := rfl
@[simp] theorem State.setMainPending_fault (s : State) (v : Bool) : (s.setMainPending v).fault = s.fault := rfl
@[simp] theorem State.setMainPending_par (s : State) (v : Bool) : (s.setMainPending v).par = s.par := rfl
@[simp] theorem State.setMainPending_mem (s : State) (v : Bool) : (s.setMainPending v).mem = s.mem := rfl
@[simp] theorem State.setMainPending_inbox (s : State) (v : Bool) : (s.setMainPending v).inbox = s.inbox := rfl
@[simp] theorem State.setMainPending_memAnswers (s : State) (v : Bool) : (s.setMainPending v).memAnswers = s.memAnswers := rfl
@[simp] theorem State.setMainPending_memDraws (s : State) (v : Bool) : (s.setMainPending v).memDraws = s.memDraws := rfl
@[simp] theorem State.setMainPending_result (s : State) (v : Bool) : (s.setMainPending v).result = s.result := rfl

@[simp] theorem State.setDonePending_cfg (s : State) (v : Bool) : (s.setDonePending v).cfg = s.cfg := rfl
@[simp] theorem State.setDonePending_job (s : State) (v : Bool) : (s.setDonePending v).job = s.job := rfl
@[simp] theorem State.setDonePending_sg (s : State) (v : Bool) : (s.setDonePending v).sg = s.sg := rfl
@[simp] theorem State.setDonePending_ts (s : State) (v : Bool) : (s.setDonePending v).ts = s.ts := rfl
@[simp] theorem State.setDonePending_sch (s : State) (v : Bool) : (s.setDonePending v).sch = s.sch := rfl
@[simp] theorem State.setDonePending_irq (s : State) (v : Bool) : (s.setDonePending v).irq = s.irq := rfl
@[simp] theorem State.setDonePending_mainPending (s : State) (v : Bool) : (s.setDonePending v).mainPending = s.mainPending := rfl
@[simp] theorem State.setDonePending_donePending (s : State) (v : Bool) : (s.setDonePending v).donePending = v := rfl
@[simp] theorem State.setDonePending_fault (s : State) (v : Bool) : (s.setDonePending v).fault = s.fault := rfl
@[simp] theorem State.setDonePending_par (s : State) (v : Bool) : (s.setDonePending v).par = s.par := rfl
@[simp] theorem State.setDonePending_mem (s : State) (v : Bool) : (s.setDonePending v).mem = s.mem := rfl
@[simp] theorem State.setDonePending_inbox (s : State) (v : Bool) : (s.setDonePending v).inbox = s.inbox := rfl
@[simp] theorem State.setDonePending_memAnswers (s : State) (v : Bool) : (s.setDonePending v).memAnswers = s.memAnswers := rfl
@[simp] theorem State.setDonePending_memDraws (s : State) (v : Bool) : (s.setDonePending v).memDraws = s.memDraws := rfl
@[simp] theorem State.setDonePending_result (s : State) (v : Bool) : (s.setDonePending v).result = s.result := rfl

@[simp] theorem State.setFault_cfg (s : State) (v : Option Fatal) : (s.setFault v).cfg = s.cfg := rfl
@[simp] theorem State.setFault_job (s : State) (v : Option Fatal) : (s.setFault v).job = s.job := rfl
@[simp] theorem State.setFault_sg (s : State) (v : Option Fatal) : (s.setFault v).sg = s.sg := rfl
@[simp] theorem State.setFault_ts (s : State) (v : Option Fatal) : (s.setFault v).ts = s.ts := rfl
@[simp] theorem State.setFault_sch (s : State) (v : Option Fatal) : (s.setFault v).sch = s.sch := rfl
@[simp] theorem State.setFault_irq (s : State) (v : Option Fatal) : (s.setFault v).irq = s.irq := rfl
@[simp] theorem State.setFault_mainPending (s : State) (v : Option Fatal) : (s.setFault v).mainPending = s.mainPending := rfl
@[simp] theorem State.setFault_donePending (s : State) (v : Option Fatal) : (s.setFault v).donePending = s.donePending := rfl
@[simp] theorem State.setFault_fault (s : State) (v : Option Fatal) : (s.setFault v).fault = v := rfl
@[simp] theorem State.setFault_par (s : State) (v : Option Fatal) : (s.setFault v).par = s.par := rfl
@[simp] theorem State.setFault_mem (s : State) (v : Option Fatal) : (s.setFault v).mem = s.mem := rfl
@[simp] theorem State.setFault_inbox (s : State) (v : Option Fatal) : (s.setFault v).inbox = s.inbox := rfl
@[simp] theorem State.setFault_memAnswers (s : State) (v : Option Fatal) : (s.setFault v).memAnswers = s.memAnswers := rfl
@[simp] theorem State.setFault_memDraws (s : State) (v : Option Fatal) : (s.setFault v).memDraws = s.memDraws := rfl
@[simp] theorem State.setFault_result (s : State) (v : Option Fatal) : (s.setFault v).result = s.result := rfl

@[simp] theorem State.setMem_cfg (s : State) (v : Memory) : (s.setMem v).cfg = s.cfg := rfl
@[simp] theorem State.setMem_job (s : State) (v : Memory) : (s.setMem v).job = s.job := rfl
@[simp] theorem State.setMem_sg (s : State) (v : Memory) : (s.setMem v).sg = s.sg := rfl
@[simp] theorem State.setMem_ts (s : State) (v : Memory) : (s.setMem v).ts = s.ts := rfl
@[simp] theorem State.setMem_sch (s : State) (v : Memory) : (s.setMem v).sch = s.sch := rfl
@[simp] theorem State.setMem_irq (s : State) (v : Memory) : (s.setMem v).irq = s.irq := rfl
@[simp] theorem State.setMem_mainPending (s : State) (v : Memory) : (s.setMem v).mainPending = s.mainPending := rfl
@[simp] theorem State.setMem_donePending (s : State) (v : Memory) : (s.setMem v).donePending = s.donePending := rfl
@[simp] theorem State.setMem_fault (s : State) (v : Memory) : (s.setMem v).fault = s.fault := rfl
@[simp] theorem State.setMem_par (s : State) (v : Memory) : (s.setMem v).par = s.par := rfl
@[simp] theorem State.setMem_mem (s : State) (v : Memory) : (s.setMem v).mem = v := rfl
@[simp] theorem State.setMem_inbox (s : State) (v : Memory) : (s.setMem v).inbox = s.inbox := rfl
@[simp] theorem State.setMem_memAnswers (s : State) (v : Memory) : (s.setMem v).memAnswers = s.memAnswers := rfl
@[simp] theorem State.setMem_memDraws (s : State) (v : Memory) : (s.setMem v).memDraws = s.memDraws := rfl
@[simp] theorem State.setMem_result (s : State) (v : Memory) : (s.setMem v).result = s.result := rfl

@[simp] theorem State.setInbox_cfg (s : State) (v : List Input) : (s.setInbox v).cfg = s.cfg := rfl
@[simp] theorem State.setInbox_job (s : State) (v : List Input) : (s.setInbox v).job = s.job := rfl
@[simp] theorem State.setInbox_sg (s : State) (v : List Input) : (s.setInbox v).sg = s.sg := rfl
@[simp] theorem State.setInbox_ts (s : State) (v : List Input) : (s.setInbox v).ts = s.ts := rfl
@[simp] theorem State.setInbox_sch (s : State) (v : List Input) : (s.setInbox v).sch = s.sch := rfl
@[simp] theorem State.setInbox_irq (s : State) (v : List Input) : (s.setInbox v).irq = s.irq := rfl
@[simp] theorem State.setInbox_mainPending (s : State) (v : List Input) : (s.setInbox v).mainPending = s.mainPending := rfl
@[simp] theorem State.setInbox_donePending (s : State) (v : List Input) : (s.setInbox v).donePending = s.donePending := rfl
@[simp] theorem State.setInbox_fault (s : State) (v : List Input) : (s.setInbox v).fault = s.fault := rfl
@[simp] theorem State.setInbox_par (s : State) (v : List Input) : (s.setInbox v).par = s.par := rfl
@[simp] theorem State.setInbox_mem (s : State) (v : List Input) : (s.setInbox v).mem = s.mem := rfl
@[simp] theorem State.setInbox_inbox (s : State) (v : List Input) : (s.setInbox v).inbox = v := rfl
@[simp] theorem State.setInbox_memAnswers (s : State) (v : List Input) : (s.setInbox v).memAnswers = s.memAnswers := rfl
@[simp] theorem State.setInbox_memDraws (s : State) (v : List Input) : (s.setInbox v).memDraws = s.memDraws := rfl
@[simp] theorem State.setInbox_result (s : State) (v : List Input) : (s.setInbox v).result = s.result := rfl

@[simp] theorem State.setMemAnswers_cfg (s : State) (v : List MemAnswer) : (s.setMemAnswers v).cfg = s.cfg := rfl
@[simp] theorem State.setMemAnswers_job (s : State) (v : List MemAnswer) : (s.setMemAnswers v).job = s.job := rfl
@[simp] theorem State.setMemAnswers_sg (s : State) (v : List MemAnswer) : (s.setMemAnswers v).sg = s.sg := rfl
@[simp] theorem State.setMemAnswers_ts (s : State) (v : List MemAnswer) : (s.setMemAnswers v).ts = s.ts := rfl
@[simp] theorem State.setMemAnswers_sch (s : State) (v : List MemAnswer) : (s.setMemAnswers v).sch = s.sch := rfl
@[simp] theorem State.setMemAnswers_irq (s : State) (v : List MemAnswer) : (s.setMemAnswers v).irq = s.irq := rfl
@[simp] theorem State.setMemAnswers_mainPending (s : State) (v : List MemAnswer) : (s.setMemAnswers v).mainPending = s.mainPending := rfl
@[simp] theorem State.setMemAnswers_donePending (s : State) (v : List MemAnswer) : (s.setMemAnswers v).donePending = s.donePending := rfl
@[simp] theorem State.setMemAnswers_fault (s : State) (v : List MemAnswer) : (s.setMemAnswers v).fault = s.fault := rfl
@[simp] theorem State.setMemAnswers_par (s : State) (v : List MemAnswer) : (s.setMemAnswers v).par = s.par := rfl
@[simp] theorem State.setMemAnswers_mem (s : State) (v : List MemAnswer) : (s.setMemAnswers v).mem = s.mem := rfl
@[simp] theorem State.setMemAnswers_inbox (s : State) (v : List MemAnswer) : (s.setMemAnswers v).inbox = s.inbox := rfl
@[simp] theorem State.setMemAnswers_memAnswers (s : State) (v : List MemAnswer) : (s.setMemAnswers v).memAnswers = v := rfl
@[simp] theorem State.setMemAnswers_memDraws (s : State) (v : List MemAnswer) : (s.setMemAnswers v).memDraws = s.memDraws := rfl
@[simp] theorem State.setMemAnswers_result (s : State) (v : List MemAnswer) : (s.setMemAnswers v).result = s.result := rfl

@[simp] theorem State.setMemDraws_cfg (s : State) (v : Nat) : (s.setMemDraws v).cfg = s.cfg := rfl
@[simp] theorem State.setMemDraws_job (s : State) (v : Nat) : (s.setMemDraws v).job = s.job := rfl
@[simp] theorem State.setMemDraws_sg (s : State) (v : Nat) : (s.setMemDraws v).sg = s.sg := rfl
@[simp] theorem State.setMemDraws_ts (s : State) (v : Nat) : (s.setMemDraws v).ts = s.ts := rfl
@[simp] theorem State.setMemDraws_sch (s : State) (v : Nat) : (s.setMemDraws v).sch = s.sch := rfl
@[simp] theorem State.setMemDraws_irq (s : State) (v : Nat) : (s.setMemDraws v).irq = s.irq := rfl
@[simp] theorem State.setMemDraws_mainPending (s : State) (v : Nat) : (s.setMemDraws v).mainPending = s.mainPending := rfl
@[simp] theorem State.setMemDraws_donePending (s : State) (v : Nat) : (s.setMemDraws v).donePending = s.donePending := rfl
@[simp] theorem State.setMemDraws_fault (s : State) (v : Nat) : (s.setMemDraws v).fault = s.fault := rfl
@[simp] theorem State.setMemDraws_par (s : State) (v : Nat) : (s.setMemDraws v).par = s.par := rfl
@[simp] theorem State.setMemDraws_mem (s : State) (v : Nat) : (s.setMemDraws v).mem = s.mem := rfl
@[simp] theorem State.setMemDraws_inbox (s : State) (v : Nat) : (s.setMemDraws v).inbox = s.inbox := rfl
@[simp] theorem State.setMemDraws_memAnswers (s : State) (v : Nat) : (s.setMemDraws v).memAnswers = s.memAnswers := rfl
@[simp] theorem State.setMemDraws_memDraws (s : State) (v : Nat) : (s.setMemDraws v).memDraws = v := rfl
@[simp] theorem State.setMemDraws_result (s : State) (v : Nat) : (s.setMemDraws v).result = s.result := rfl

@[simp] theorem State.setResult_cfg (s : State) (v : Result) : (s.setResult v).cfg = s.cfg := rfl
@[simp] theorem State.setResult_job (s : State) (v : Result) : (s.setResult v).job = s.job := rfl
@[simp] theorem State.setResult_sg (s : State) (v : Result) : (s.setResult v).sg = s.sg := rfl
@[simp] theorem State.setResult_ts (s : State) (v : Result) : (s.setResult v).ts = s.ts := rfl
@[simp] theorem State.setResult_sch (s : State) (v : Result) : (s.setResult v).sch = s.sch := rfl
@[simp] theorem State.setResult_irq (s : State) (v : Result) : (s.setResult v).irq = s.irq := rfl
@[simp] theorem State.setResult_mainPending (s : State) (v : Result) : (s.setResult v).mainPending = s.mainPending := rfl
@[simp] theorem State.setResult_donePending (s : State) (v : Result) : (s.setResult v).donePending = s.donePending := rfl
@[simp] theorem State.setResult_fault (s : State) (v : Result) : (s.setResult v).fault = s.fault := rfl
@[simp] theorem State.setResult_par (s : State) (v : Result) : (s.setResult v).par = s.par := rfl
@[simp] theorem State.setResult_mem (s : State) (v : Result) : (s.setResult v).mem = s.mem := rfl
@[simp] theorem State.setResult_inbox (s : State) (v : Result) : (s.setResult v).inbox = s.inbox := rfl
@[simp] theorem State.setResult_memAnswers (s : State) (v : Result) : (s.setResult v).memAnswers = s.memAnswers := rfl
@[simp] theorem State.setResult_memDraws (s : State) (v : Result) : (s.setResult v).memDraws = s.memDraws := rfl
@[simp] theorem State.setResult_result (s : State) (v : Result) : (s.setResult v).result = v := rfl
/-! ## Stream descriptors -/

@[simp] theorem Streams.desc_setDesc_same (g : Streams) (str : Stream) (d : StreamDesc) :
    (g.setDesc str d).desc str = d := by cases str <;> rfl

theorem Streams.desc_setDesc_other (g : Streams) (str str' : Stream) (d : StreamDesc) (h : str' ≠ str) :
    (g.setDesc str d).desc str' = g.desc str' := by
  cases str <;> cases str' <;> first | rfl | exact absurd rfl h

@[simp] theorem State.setDesc_eq (s : State) (str : Stream) (d : StreamDesc) :
    s.setDesc str d = s.setSg (s.sg.setDesc str d) := rfl

/-! ## JobConfig -/

theorem StreamCfg.reg_setReg_same (c : StreamCfg) (f : StreamField) (v : Option Word) :
    (c.setReg f v).reg f = v := by cases f <;> rfl

theorem StreamCfg.reg_setReg_other (c : StreamCfg) (f f' : StreamField) (v : Option Word) (h : f' ≠ f) :
    (c.setReg f v).reg f' = c.reg f' := by
  cases f <;> cases f' <;> first | rfl | exact absurd rfl h

/-! ## Taking a fatal condition -/

theorem raiseFatal_of_none (f : Fatal) (s : State) (h : s.fault = none) :
    raiseFatal f s = s.setFault (some f) := by simp [raiseFatal, h]

theorem raiseFatal_of_some (f g : Fatal) (s : State) (h : s.fault = some g) :
    raiseFatal f s = s := by simp [raiseFatal, h]

theorem raiseFatal_fault_isSome (f : Fatal) (s : State) : (raiseFatal f s).fault.isSome = true := by
  cases h : s.fault with
  | none => simp [raiseFatal_of_none f s h]
  | some g => simp [raiseFatal_of_some f g s h, h]

/-- Whatever is raised, only `fault` changes (60_exceptions R158). -/
theorem raiseFatal_eq (f : Fatal) (s : State) : ∃ v, raiseFatal f s = s.setFault v := by
  cases h : s.fault with
  | none => exact ⟨_, raiseFatal_of_none f s h⟩
  | some g => exact ⟨some g, by rw [raiseFatal_of_some f g s h, ← h]; rfl⟩

theorem unlessStopped_of_none (s : State) (o : Host.Outcome State Fault Refusal) (h : s.fault = none) :
    unlessStopped s o = o := by simp [unlessStopped, h]

theorem unlessStopped_of_some (s : State) (o : Host.Outcome State Fault Refusal) (f : Fatal)
    (h : s.fault = some f) : unlessStopped s o = .next s := by simp [unlessStopped, h]

@[simp] theorem Res.bind_ok {α β : Type} (a : α) (s : State) (f : α → State → Res β) :
    (Res.ok a s).bind f = f a s := rfl

@[simp] theorem Res.bind_fatal {α β : Type} (s : State) (f : α → State → Res β) :
    (Res.fatal s : Res α).bind f = .fatal s := rfl

@[simp] theorem Res.bind_refused {α β : Type} (r : Refusal) (f : α → State → Res β) :
    (Res.refused r : Res α).bind f = .refused r := rfl

/-- What a whole operation that succeeds is made of. -/
theorem Res.bind_eq_ok {α β : Type} {r : Res α} {f : α → State → Res β} {b : β} {t : State}
    (h : r.bind f = .ok b t) : ∃ a s, r = .ok a s ∧ f a s = .ok b t := by
  cases r with
  | ok a s => exact ⟨a, s, rfl, h⟩
  | fatal s => cases h
  | refused r => cases h

@[simp] theorem finish_ok {α : Type} (a : α) (s : State) (f : α → Result) :
    finish (.ok a s) f = .next (s.setResult (f a)) := rfl

@[simp] theorem finish_fatal {α : Type} (s : State) (f : α → Result) :
    finish (.fatal s) f = .next s := rfl

@[simp] theorem finishUnit_ok (s : State) : finishUnit (.ok () s) = .next s := rfl

@[simp] theorem finishUnit_fatal (s : State) : finishUnit (.fatal s) = .next s := rfl

end Sys2Proof.Machine
end

