-- ==== Sys2Proof/Laws/Memory.lean ====
section
/-! SUPPORT. The laws of external memory: a read after a write, and that every memory operation keeps the
canonical form. -/

namespace Sys2Proof.Machine

/-! ## Addresses -/

/-- The address of byte `q`, spelled out: `u32(addr + q)` (20_memory R33, R34). -/
theorem byteAddr_eq (addr : Word) (q : Nat) : byteAddr addr q = (addr.toNat + q) % 2 ^ 32 := by
  simp [byteAddr, BitVec.toNat_add]

/-- The line a read takes, byte by byte (20_memory R33). -/
theorem Memory.readBytes_eq (m : Memory) (addr : Word) (count : Nat) :
    Memory.readBytes m addr count =
      (List.range count).map (fun q => Memory.read m ((addr.toNat + q) % 2 ^ 32)) := by
  simp only [Memory.readBytes, byteAddr_eq]

/-! ## Reads -/

@[simp] theorem Memory.read_cons_same (a : Nat) (v : Option Byte) (m : Memory) (h : Memory.read m a = none) :
    Memory.read (Memory.cons a v m) a = v := by
  cases v with
  | none => simpa [Memory.cons] using h
  | some b => simp [Memory.cons, Memory.read]

theorem Memory.read_cons_other (a a' : Nat) (v : Option Byte) (m : Memory) (h : a' ≠ a) :
    Memory.read (Memory.cons a v m) a' = Memory.read m a' := by
  cases v with
  | none => rfl
  | some b => simp [Memory.cons, Memory.read, Ne.symm h]

/-- A write leaves every other address alone, whatever the memory. -/
theorem Memory.read_write_other (m : Memory) (a a' : Nat) (v : Option Byte) (h : a' ≠ a) :
    Memory.read (Memory.write m a v) a' = Memory.read m a' := by
  induction m with
  | nil => simp [Memory.write, Memory.read_cons_other _ _ _ _ h]
  | cons c m ih =>
    obtain ⟨k, b⟩ := c
    simp only [Memory.write]
    split
    · simp [Memory.read, ih]
    · split
      · next hk => subst hk; simp [Memory.read_cons_other _ _ _ _ h, Memory.read, Ne.symm h]
      · rw [Memory.read_cons_other _ _ _ _ h]

/-- An address below every listed one is not listed. -/
theorem Memory.read_eq_none_of_lt (m : Memory) (a : Nat) (h : ∀ k ∈ m.map Prod.fst, a < k) :
    Memory.read m a = none := by
  induction m with
  | nil => rfl
  | cons c m ih =>
    obtain ⟨k, b⟩ := c
    have hk : a < k := h k (by simp)
    simp only [Memory.read, Nat.ne_of_gt hk, if_false]
    exact ih (fun k' hk' => h k' (by simp at hk' ⊢; exact Or.inr hk'))

/-- A write followed by a read of the same address gives the value written. -/
theorem Memory.read_write_same (m : Memory) (a : Nat) (v : Option Byte)
    (h : (m.map Prod.fst).Pairwise (· < ·)) : Memory.read (Memory.write m a v) a = v := by
  induction m with
  | nil => exact Memory.read_cons_same a v [] rfl
  | cons c m ih =>
    obtain ⟨k, b⟩ := c
    simp only [List.map_cons, List.pairwise_cons] at h
    simp only [Memory.write]
    split
    · next hk => simp [Memory.read, Nat.ne_of_lt hk, ih h.2]
    · split
      · next hk =>
        subst hk
        exact Memory.read_cons_same _ _ _ (Memory.read_eq_none_of_lt _ _ h.1)
      · next h1 h2 =>
        refine Memory.read_cons_same _ _ _ (Memory.read_eq_none_of_lt _ _ ?_)
        intro k' hk'
        simp only [List.map_cons, List.mem_cons] at hk'
        rcases hk' with rfl | hk'
        · omega
        · have := h.1 k' hk'; omega

/-! ## The canonical form -/

theorem Memory.nil_wf : Memory.wf [] := by simp [Memory.wf]

theorem Memory.mem_write_addr (m : Memory) (a : Nat) (v : Option Byte) (k : Nat)
    (h : k ∈ (Memory.write m a v).map Prod.fst) : k = a ∨ k ∈ m.map Prod.fst := by
  induction m with
  | nil => cases v <;> simp [Memory.write, Memory.cons] at h; exact Or.inl h
  | cons c m ih =>
    obtain ⟨k', b⟩ := c
    simp only [Memory.write] at h
    split at h
    · simp only [List.map_cons, List.mem_cons] at h ⊢
      rcases h with h | h
      · exact Or.inr (Or.inl h)
      · rcases ih h with h | h
        · exact Or.inl h
        · exact Or.inr (Or.inr h)
    · split at h
      · cases v <;> simp only [Memory.cons, List.map_cons, List.mem_cons] at h ⊢
        · exact Or.inr (Or.inr h)
        · rcases h with h | h
          · exact Or.inl h
          · exact Or.inr (Or.inr h)
      · cases v <;> simp only [Memory.cons, List.map_cons, List.mem_cons] at h ⊢
        · exact Or.inr h
        · exact h

theorem Memory.write_sorted (m : Memory) (a : Nat) (v : Option Byte)
    (h : (m.map Prod.fst).Pairwise (· < ·)) : ((Memory.write m a v).map Prod.fst).Pairwise (· < ·) := by
  induction m with
  | nil => cases v <;> simp [Memory.write, Memory.cons]
  | cons c m ih =>
    obtain ⟨k, b⟩ := c
    have h0 := h
    simp only [List.map_cons, List.pairwise_cons] at h
    simp only [Memory.write]
    split
    · next hk =>
      simp only [List.map_cons, List.pairwise_cons]
      refine ⟨fun k' hk' => ?_, ih h.2⟩
      rcases Memory.mem_write_addr m a v k' hk' with rfl | hk'
      · exact hk
      · exact h.1 k' hk'
    · split
      · next hk =>
        subst hk
        cases v with
        | none => exact h.2
        | some b' => simpa [Memory.cons] using h
      · next h1 h2 =>
        cases v with
        | none => exact h0
        | some b' =>
          simp only [Memory.cons, List.map_cons, List.pairwise_cons]
          refine ⟨fun k' hk' => ?_, h.1, h.2⟩
          simp only [List.mem_cons] at hk'
          rcases hk' with rfl | hk'
          · omega
          · have := h.1 k' hk'; omega

/-- A write inside the address space keeps the canonical form. -/
theorem Memory.write_wf (m : Memory) (a : Nat) (v : Option Byte) (h : Memory.wf m) (ha : a < 2 ^ 32) :
    Memory.wf (Memory.write m a v) := by
  refine ⟨Memory.write_sorted m a v h.1, fun c hc => ?_⟩
  rcases Memory.mem_write_addr m a v c.1 (List.mem_map_of_mem hc) with h1 | h1
  · omega
  · obtain ⟨c', hc', he⟩ := List.mem_map.1 h1
    have := h.2 c' hc'
    omega

theorem byteAddr_lt (addr : Word) (q : Nat) : byteAddr addr q < 2 ^ 32 :=
  (addr + BitVec.ofNat 32 q).isLt

theorem Memory.writeFrom_wf (addr : Word) (strobe : Nat) (bytes : List (Option Byte)) :
    ∀ (m : Memory) (q : Nat), Memory.wf m → Memory.wf (Memory.writeFrom m addr strobe q bytes) := by
  induction bytes with
  | nil => intro m q h; exact h
  | cons b bs ih =>
    intro m q h
    simp only [Memory.writeFrom]
    refine ih _ _ ?_
    split
    · exact Memory.write_wf m _ b h (byteAddr_lt addr q)
    · exact h

/-- A strobed line write keeps the canonical form. -/
theorem Memory.writeBytes_wf (m : Memory) (addr : Word) (strobe : Nat) (bytes : List (Option Byte))
    (h : Memory.wf m) : Memory.wf (Memory.writeBytes m addr strobe bytes) :=
  Memory.writeFrom_wf addr strobe bytes m 0 h

theorem State.reset_mem_wf : Memory.wf State.reset.mem := Memory.nil_wf

/-! ## What a strobed line write leaves alone -/

theorem Memory.read_writeFrom_other (addr : Word) (strobe : Nat) (a : Nat) (bytes : List (Option Byte)) :
    ∀ (m : Memory) (q : Nat),
      (∀ k < bytes.length, strobe.testBit (q + k) = true → a ≠ byteAddr addr (q + k)) →
      Memory.read (Memory.writeFrom m addr strobe q bytes) a = Memory.read m a := by
  induction bytes with
  | nil => intro m q _; rfl
  | cons b bs ih =>
    intro m q h
    simp only [Memory.writeFrom]
    rw [ih _ _ (fun k hk ht => by
      have := h (k + 1) (by simpa using hk)
      rw [show q + (k + 1) = q + 1 + k by omega] at this
      exact this ht)]
    split
    · next ht => exact Memory.read_write_other m _ a b (by simpa using h 0 (by simp) (by simpa using ht))
    · rfl

/-- "If `strobe[q] = 0` that byte is left untouched" (20_memory R34), and so is every byte outside the line. -/
theorem Memory.read_writeBytes_other (m : Memory) (addr : Word) (strobe : Nat) (bytes : List (Option Byte))
    (a : Nat) (h : ∀ q < bytes.length, strobe.testBit q = true → a ≠ byteAddr addr q) :
    Memory.read (Memory.writeBytes m addr strobe bytes) a = Memory.read m a :=
  Memory.read_writeFrom_other addr strobe a bytes m 0 (by simpa using h)

@[simp] theorem Memory.readBytes_length (m : Memory) (addr : Word) (count : Nat) :
    (Memory.readBytes m addr count).length = count := by simp [Memory.readBytes]

end Sys2Proof.Machine
end

