-- ==== Sys2Proof/Laws/PerInstr.lean ====
section
/-! SUPPORT. One lemma per constructor of `Instr`: its word has the format the opcode table gives its row
(spec/30_encoding.md rules R59, R71). -/

namespace Sys2Proof.Laws

/-- The word of an operation has the format of the operation's row. -/
def EncodedFormat.Statement (i : Instr) : Prop := (encode i).format = i.format

theorem EncodedFormat.cfgwrXBase (wdata : Word) : EncodedFormat.Statement (.cfgwrXBase wdata) := rfl
theorem EncodedFormat.cfgwrWBase (wdata : Word) : EncodedFormat.Statement (.cfgwrWBase wdata) := rfl
theorem EncodedFormat.cfgwrYBase (wdata : Word) : EncodedFormat.Statement (.cfgwrYBase wdata) := rfl
theorem EncodedFormat.cfgwrZBase (wdata : Word) : EncodedFormat.Statement (.cfgwrZBase wdata) := rfl
theorem EncodedFormat.cfgwrXTotLen (wdata : Word) : EncodedFormat.Statement (.cfgwrXTotLen wdata) := rfl
theorem EncodedFormat.cfgwrWTotLen (wdata : Word) : EncodedFormat.Statement (.cfgwrWTotLen wdata) := rfl
theorem EncodedFormat.cfgwrYTotLen (wdata : Word) : EncodedFormat.Statement (.cfgwrYTotLen wdata) := rfl
theorem EncodedFormat.cfgwrZTotLen (wdata : Word) : EncodedFormat.Statement (.cfgwrZTotLen wdata) := rfl
theorem EncodedFormat.cfgwrWIter (rows cols : BitVec 16) : EncodedFormat.Statement (.cfgwrWIter rows cols) := rfl
theorem EncodedFormat.cfgwrXIter (rows cols : BitVec 16) : EncodedFormat.Statement (.cfgwrXIter rows cols) := rfl
theorem EncodedFormat.cfgwrLeftover (xRowLo xColLo wRowLo wColLo : BitVec 8) : EncodedFormat.Statement (.cfgwrLeftover xRowLo xColLo wRowLo wColLo) := rfl
theorem EncodedFormat.trigger (ignored : Word) : EncodedFormat.Statement (.trigger ignored) := rfl
theorem EncodedFormat.irqclr (ignored : Word) : EncodedFormat.Statement (.irqclr ignored) := rfl
theorem EncodedFormat.cfgwrXD0Len (wdata : Word) : EncodedFormat.Statement (.cfgwrXD0Len wdata) := rfl
theorem EncodedFormat.cfgwrXD0Stride (wdata : Word) : EncodedFormat.Statement (.cfgwrXD0Stride wdata) := rfl
theorem EncodedFormat.cfgwrXD1Len (wdata : Word) : EncodedFormat.Statement (.cfgwrXD1Len wdata) := rfl
theorem EncodedFormat.cfgwrXD1Stride (wdata : Word) : EncodedFormat.Statement (.cfgwrXD1Stride wdata) := rfl
theorem EncodedFormat.cfgwrXD2Len (wdata : Word) : EncodedFormat.Statement (.cfgwrXD2Len wdata) := rfl
theorem EncodedFormat.cfgwrXD2Stride (wdata : Word) : EncodedFormat.Statement (.cfgwrXD2Stride wdata) := rfl
theorem EncodedFormat.cfgwrXD3Stride (wdata : Word) : EncodedFormat.Statement (.cfgwrXD3Stride wdata) := rfl
theorem EncodedFormat.cfgwrWD0Len (wdata : Word) : EncodedFormat.Statement (.cfgwrWD0Len wdata) := rfl
theorem EncodedFormat.cfgwrWD0Stride (wdata : Word) : EncodedFormat.Statement (.cfgwrWD0Stride wdata) := rfl
theorem EncodedFormat.cfgwrWD1Len (wdata : Word) : EncodedFormat.Statement (.cfgwrWD1Len wdata) := rfl
theorem EncodedFormat.cfgwrWD1Stride (wdata : Word) : EncodedFormat.Statement (.cfgwrWD1Stride wdata) := rfl
theorem EncodedFormat.cfgwrWD2Len (wdata : Word) : EncodedFormat.Statement (.cfgwrWD2Len wdata) := rfl
theorem EncodedFormat.cfgwrWD2Stride (wdata : Word) : EncodedFormat.Statement (.cfgwrWD2Stride wdata) := rfl
theorem EncodedFormat.cfgwrWD3Stride (wdata : Word) : EncodedFormat.Statement (.cfgwrWD3Stride wdata) := rfl
theorem EncodedFormat.cfgwrYD0Len (wdata : Word) : EncodedFormat.Statement (.cfgwrYD0Len wdata) := rfl
theorem EncodedFormat.cfgwrYD0Stride (wdata : Word) : EncodedFormat.Statement (.cfgwrYD0Stride wdata) := rfl
theorem EncodedFormat.cfgwrYD1Len (wdata : Word) : EncodedFormat.Statement (.cfgwrYD1Len wdata) := rfl
theorem EncodedFormat.cfgwrYD1Stride (wdata : Word) : EncodedFormat.Statement (.cfgwrYD1Stride wdata) := rfl
theorem EncodedFormat.cfgwrYD2Len (wdata : Word) : EncodedFormat.Statement (.cfgwrYD2Len wdata) := rfl
theorem EncodedFormat.cfgwrYD2Stride (wdata : Word) : EncodedFormat.Statement (.cfgwrYD2Stride wdata) := rfl
theorem EncodedFormat.cfgwrYD3Stride (wdata : Word) : EncodedFormat.Statement (.cfgwrYD3Stride wdata) := rfl
theorem EncodedFormat.cfgwrZD0Len (wdata : Word) : EncodedFormat.Statement (.cfgwrZD0Len wdata) := rfl
theorem EncodedFormat.cfgwrZD0Stride (wdata : Word) : EncodedFormat.Statement (.cfgwrZD0Stride wdata) := rfl
theorem EncodedFormat.cfgwrZD1Len (wdata : Word) : EncodedFormat.Statement (.cfgwrZD1Len wdata) := rfl
theorem EncodedFormat.cfgwrZD1Stride (wdata : Word) : EncodedFormat.Statement (.cfgwrZD1Stride wdata) := rfl
theorem EncodedFormat.cfgwrZD2Len (wdata : Word) : EncodedFormat.Statement (.cfgwrZD2Len wdata) := rfl
theorem EncodedFormat.cfgwrZD2Stride (wdata : Word) : EncodedFormat.Statement (.cfgwrZD2Stride wdata) := rfl
theorem EncodedFormat.cfgwrZD3Stride (wdata : Word) : EncodedFormat.Statement (.cfgwrZD3Stride wdata) := rfl
theorem EncodedFormat.fsmIdle : EncodedFormat.Statement (.fsmIdle) := rfl
theorem EncodedFormat.fsmStarting : EncodedFormat.Statement (.fsmStarting) := rfl
theorem EncodedFormat.fsmComputing : EncodedFormat.Statement (.fsmComputing) := rfl
theorem EncodedFormat.fsmStoring : EncodedFormat.Statement (.fsmStoring) := rfl
theorem EncodedFormat.fsmFinished : EncodedFormat.Statement (.fsmFinished) := rfl
theorem EncodedFormat.stepNone : EncodedFormat.Statement (.stepNone) := rfl
theorem EncodedFormat.stepW : EncodedFormat.Statement (.stepW) := rfl
theorem EncodedFormat.stepX : EncodedFormat.Statement (.stepX) := rfl
theorem EncodedFormat.stepY : EncodedFormat.Statement (.stepY) := rfl
theorem EncodedFormat.stepZ : EncodedFormat.Statement (.stepZ) := rfl
theorem EncodedFormat.sgConfigure (str : Stream) (base totLen d0Len d0Stride d1Len d1Stride d2Len d2Stride d3Stride : Word) : EncodedFormat.Statement (.sgConfigure str base totLen d0Len d0Stride d1Len d1Stride d2Len d2Stride d3Stride) := rfl
theorem EncodedFormat.sgIterate (str : Stream) (slot : Option Slot) (strobe : Nat) : EncodedFormat.Statement (.sgIterate str slot strobe) := rfl
theorem EncodedFormat.sgIsdone (str : Stream) : EncodedFormat.Statement (.sgIsdone str) := rfl
theorem EncodedFormat.tsAlloc (n : Word) (xRowLo xColLo wRowLo wColLo : BitVec 8) : EncodedFormat.Statement (.tsAlloc n xRowLo xColLo wRowLo wColLo) := rfl
theorem EncodedFormat.tsNextw : EncodedFormat.Statement (.tsNextw) := rfl
theorem EncodedFormat.tsNextx : EncodedFormat.Statement (.tsNextx) := rfl
theorem EncodedFormat.tsNexty : EncodedFormat.Statement (.tsNexty) := rfl
theorem EncodedFormat.tsNextz : EncodedFormat.Statement (.tsNextz) := rfl
theorem EncodedFormat.tsComputez : EncodedFormat.Statement (.tsComputez) := rfl
theorem EncodedFormat.tsFree : EncodedFormat.Statement (.tsFree) := rfl
theorem EncodedFormat.mkstrobe (count width : Nat) : EncodedFormat.Statement (.mkstrobe count width) := rfl
theorem EncodedFormat.schedEntry : EncodedFormat.Statement (.schedEntry) := rfl
theorem EncodedFormat.schedInvoke : EncodedFormat.Statement (.schedInvoke) := rfl
theorem EncodedFormat.schedComplete : EncodedFormat.Statement (.schedComplete) := rfl

end Sys2Proof.Laws
end

