-- ==== Sys2Proof/Laws/Runs.lean ====
section
/-! SUPPORT. When a job has ended (spec/70_reset_and_hazards.md rules R168, R182): the completion ends it, a
start state, a reset, a running block and a fault do not. -/

namespace Sys2Proof.Machine

/-- Everything a step that runs the completion continuation does (43_scheduler R132). -/
theorem runsCompletion_step {s t : State} (h : runsCompletion s = true) (hs : step s = .next t) :
    ∃ s1, s1.donePending = true ∧ s1.fault = none ∧ t = complete s1 := by
  unfold runsCompletion at h
  split at h
  · next s1 hn =>
    simp only [Bool.and_eq_true, Option.isNone_iff_eq_none] at h
    refine ⟨s1, h.1, h.2, ?_⟩
    have : step s = exec .schedComplete s1 := by simp [step, hn]
    rw [this] at hs
    simpa [exec, execSchedComplete, unlessStopped_of_none s1 _ h.2, completeIfPending, h.1] using hs.symm
  · cases h

/-- "A job has ended successfully exactly when `SCHED.COMPLETE` has run for it": the step that runs it ends
the job, with `irq = 1`. -/
theorem jobEnded_of_completion {s t : State} {before : List State} (hr : IsRun (t :: s :: before))
    (h : runsCompletion s = true) : jobEnded (t :: s :: before) ∧ t.irq = true := by
  obtain ⟨s1, -, hf, rfl⟩ := runsCompletion_step h hr.1
  exact ⟨⟨by simp [completedSince, h], rfl, Or.inl rfl, hf, rfl⟩, rfl⟩

/-- No job has ended where a run starts, be it the state after reset. -/
theorem not_jobEnded_start (s : State) : ¬ jobEnded [s] := fun h => absurd h.1 (by simp [completedSince])

/-- A step on the reset input runs no completion. -/
theorem runsCompletion_of_takesReset {s : State} (h : takesReset s = true) : runsCompletion s = false := by
  unfold takesReset at h
  split at h
  · next rest hi => simp [runsCompletion, nextAction, hi]
  · cases h

/-- A reset abandons a job, and an earlier job's end is not seen past it (70_reset R168). -/
theorem not_jobEnded_after_reset {s t : State} {before : List State} (h : takesReset s = true) :
    ¬ jobEnded (t :: s :: before) :=
  fun he => absurd he.1 (by simp [completedSince, runsCompletion_of_takesReset h, h])

/-- "A job that ends in a fault has not ended successfully." -/
theorem not_jobEnded_of_fault {t : State} {before : List State} (h : t.fault ≠ none) :
    ¬ jobEnded (t :: before) := fun he => h he.2.2.2.1

/-- While the next job runs, none has ended. -/
theorem not_jobEnded_of_busy {t : State} {before : List State} (h : t.sch.state ≠ stIdle) :
    ¬ jobEnded (t :: before) := fun he => h he.2.1

/-- Lowering the interrupt does not undo the end of a job. -/
theorem jobEnded_irqclr {s t : State} {before : List State} (hr : IsRun (t :: s :: before))
    (he : jobEnded (s :: before)) (h : runsIrqclr s = true) : jobEnded (t :: s :: before) := by
  have hc : runsCompletion s = false := by
    unfold runsIrqclr at h
    split at h
    · next hn => simp [runsCompletion, hn]
    · cases h
  have hreset : takesReset s = false := by
    cases ht : takesReset s with
    | false => rfl
    | true =>
      unfold takesReset at ht
      split at ht
      · next rest hi => simp [runsIrqclr, nextAction, hi] at h
      · cases ht
  obtain ⟨h1, h2, -, h4, h5⟩ := he
  have key : t.sch = s.sch ∧ t.fault = s.fault ∧ t.ts = s.ts := by
    have hs := hr.1
    unfold runsIrqclr at h
    split at h
    · next d s1 hn =>
      simp only [Option.isNone_iff_eq_none] at h
      have e1 : step s = exec (.irqclr d) s1 := by simp [step, hn]
      rw [e1] at hs
      have e2 : t = s1.setIrq false := by
        simpa [exec, execIrqclr, unlessStopped_of_none s1 _ h] using hs.symm
      have e3 : ∃ rest, s1 = s.setInbox rest := by
        unfold nextAction at hn
        split at hn
        · unfold ownAction at hn
          split at hn
          · cases hn
          · split at hn
            · cases hn
            · split at hn <;> cases hn
        · cases hn
        · cases hn
        · next w rest hi =>
          refine ⟨rest, ?_⟩
          unfold presentWord at hn
          split at hn
          · cases hn; rfl
          · next e _ => cases e <;> simp [undecodable] at hn
      obtain ⟨rest, rfl⟩ := e3
      rw [e2]
      exact ⟨rfl, rfl, rfl⟩
    · cases h
  refine ⟨?_, by rw [key.1]; exact h2, Or.inr ?_, by rw [key.2.1]; exact h4, by rw [key.2.2]; exact h5⟩
  · simp [completedSince, h1, hreset, key.1, h2]
  · simp [irqClearedSince, hc, h]

end Sys2Proof.Machine
end

