-- ==== Sys2Proof/Laws/Units.lean ====
section
/-! SUPPORT. What each shared operation can do: the frames of the stream steps, the latency they return,
and the shapes the tile-store operations keep. -/

namespace Sys2Proof.Machine

/-! ## The frame of a stream step -/

/-- Everything but the stream descriptors, the tile store, memory and the memory's answers, and `fault`. -/
abbrev KeepsControl (s t : State) : Prop :=
  t.cfg = s.cfg ∧ t.job = s.job ∧ t.sch = s.sch ∧ t.irq = s.irq ∧ t.mainPending = s.mainPending ∧
  t.donePending = s.donePending ∧ t.par = s.par ∧ t.inbox = s.inbox ∧ t.result = s.result

/-- An access takes the next listed answer or draws one; nothing else changes. -/
theorem nextAnswer_cases (s : State) :
    (∃ a rest, s.memAnswers = a :: rest ∧ nextAnswer s = (a, s.setMemAnswers rest)) ∨
    (s.memAnswers = [] ∧
      nextAnswer s = (Config.memAnswer s.memDraws, s.setMemDraws (s.memDraws + 1))) := by
  cases h : s.memAnswers with
  | nil => exact Or.inr ⟨rfl, by simp [nextAnswer, h]⟩
  | cons a rest => exact Or.inl ⟨a, rest, rfl, by simp [nextAnswer, h]⟩

theorem nextAnswer_frame {s s1 : State} {a : MemAnswer} (h : nextAnswer s = (a, s1)) :
    KeepsControl s s1 ∧ s1.sg = s.sg ∧ s1.ts = s.ts ∧ s1.mem = s.mem ∧ s1.fault = s.fault := by
  rcases nextAnswer_cases s with ⟨a', rest, -, h'⟩ | ⟨-, h'⟩ <;>
    rw [h'] at h <;> cases h <;> simp [KeepsControl]

/-- The memory's answer does not depend on the tile store, and taking it leaves the tile store alone. -/
theorem nextAnswer_setTs (s : State) (ts : TileStore) :
    nextAnswer (s.setTs ts) = ((nextAnswer s).1, (nextAnswer s).2.setTs ts) := by
  rcases s with ⟨_, _, _, _, _, _, _, _, _, _, _, _, answers, _, _⟩
  cases answers <;> rfl

theorem endTransaction_ok {str : Stream} {l lat : Nat} {s t : State}
    (h : endTransaction str l s = .ok lat t) :
    lat = l + 1 ∧ t = s.setSg (s.sg.setDesc str (StreamDesc.afterStep (s.sg.desc str) l)) := by
  simp only [endTransaction, Res.ok.injEq] at h
  exact ⟨h.1.symm, h.2.symm⟩

/-- A read that succeeds: the slot takes the line memory held, the descriptor advances. -/
theorem readTransaction_ok {str : Stream} {slot : Slot} {s t : State} {lat : Nat}
    (h : readTransaction str slot s = .ok lat t) :
    ∃ l s1, nextAnswer s = (⟨.success, l⟩, s1) ∧ lat = l + 1 ∧
      t = ((s1.setTs (s1.ts.writeSlot slot (bytesToLine s1.par.aw s1.par.eb
          (Memory.readBytes s1.mem (StreamDesc.addr (s.sg.desc str)) s1.par.lb)))).setSg
        (s1.sg.setDesc str (StreamDesc.afterStep (s1.sg.desc str) l))) := by
  unfold readTransaction at h
  split at h
  · next l s1 hn =>
    obtain ⟨h1, h2⟩ := endTransaction_ok h
    exact ⟨l, s1, hn, h1, h2⟩
  · cases h

/-- A write that succeeds: memory takes the strobed bytes of the line, the descriptor advances. -/
theorem writeTransaction_ok {str : Stream} {line : List TileElem} {strobe : Nat} {s t : State} {lat : Nat}
    (h : writeTransaction str line strobe s = .ok lat t) :
    ∃ l s1, nextAnswer s = (⟨.success, l⟩, s1) ∧ lat = l + 1 ∧
      t = ((s1.setMem (Memory.writeBytes s1.mem (StreamDesc.addr (s.sg.desc str)) strobe
          (lineToBytes s.par.eb line))).setSg
        (s1.sg.setDesc str (StreamDesc.afterStep (s1.sg.desc str) l))) := by
  unfold writeTransaction at h
  split at h
  · next l s1 hn =>
    obtain ⟨h1, h2⟩ := endTransaction_ok h
    exact ⟨l, s1, hn, h1, h2⟩
  · cases h

/-- Everything `SG.ITERATE` can do when it answers: a bubble, a write by Z, or a read by another stream. -/
theorem iterate_ok {str : Stream} {slot : Option Slot} {strobe : Nat} {s t : State} {lat : Nat}
    (h : iterate str slot strobe s = .ok lat t) :
    (slot = none ∧ lat = 1 ∧
      t = s.setSg (s.sg.setDesc str (StreamDesc.afterBubble (s.sg.desc str)))) ∨
    (∃ sl line, slot = some sl ∧ isDone str s = false ∧ s.ts.readSlot s.par sl = some line ∧
      ((str = .z ∧ writeTransaction str line strobe s = .ok lat t) ∨
        (str ≠ .z ∧ readTransaction str sl s = .ok lat t))) := by
  unfold iterate at h
  split at h
  · simp only [Res.ok.injEq] at h
    exact Or.inl ⟨rfl, h.1.symm, h.2.symm⟩
  · next sl =>
    split at h
    · cases h
    · next hd =>
      split at h
      · cases h
      · next line hl =>
        refine Or.inr ⟨sl, line, rfl, by simpa using hd, hl, ?_⟩
        cases str
        · exact Or.inr ⟨by simp, h⟩
        · exact Or.inr ⟨by simp, h⟩
        · exact Or.inr ⟨by simp, h⟩
        · exact Or.inl ⟨rfl, h⟩

/-- `SG.ITERATE` leaves the control state alone, raises nothing when it answers, and returns at least 1. -/
theorem iterate_frame {str : Stream} {slot : Option Slot} {strobe : Nat} {s t : State} {lat : Nat}
    (h : iterate str slot strobe s = .ok lat t) :
    KeepsControl s t ∧ t.fault = s.fault ∧ 1 ≤ lat := by
  rcases iterate_ok h with ⟨-, rfl, rfl⟩ | ⟨sl, line, -, -, -, hw | hr⟩
  · simp [KeepsControl]
  · obtain ⟨l, s1, hn, rfl, rfl⟩ := writeTransaction_ok hw.2
    have := nextAnswer_frame hn
    simp_all [KeepsControl]
  · obtain ⟨l, s1, hn, rfl, rfl⟩ := readTransaction_ok hr.2
    have := nextAnswer_frame hn
    simp_all [KeepsControl]

/-- A next-slot operation moves cursors of the tile store and nothing else. -/
abbrev NextSlotFrame (next : State → Res Slot) : Prop :=
  ∀ {s t sl}, next s = .ok sl t → ∃ ts, t = s.setTs ts

theorem nextW_frame : NextSlotFrame nextW := by
  intro s t sl h
  unfold nextW at h
  split at h
  · cases h
  · cases h; exact ⟨_, rfl⟩

theorem nextX_frame : NextSlotFrame nextX := by
  intro s t sl h
  unfold nextX at h
  split at h
  · cases h
  · simp only [Res.ok.injEq] at h
    obtain ⟨-, rfl⟩ := h
    split <;> exact ⟨_, rfl⟩

theorem nextY_frame : NextSlotFrame nextY := by
  intro s t sl h; cases h; exact ⟨_, rfl⟩

theorem nextZ_frame : NextSlotFrame nextZ := by
  intro s t sl h; cases h; exact ⟨_, rfl⟩

/-- Everything a gated stream step can do when it answers (43_scheduler R133). -/
theorem gated_ok {str : Stream} {strobe : Nat} {next : State → Res Slot} {s t : State} {lat : Nat}
    (h : gated str strobe next s = .ok lat t) :
    (isDone str s = true ∧ iterate str none strobe s = .ok lat t) ∨
    (isDone str s = false ∧ ∃ sl s1, next s = .ok sl s1 ∧ iterate str (some sl) strobe s1 = .ok lat t) := by
  unfold gated at h
  split at h
  · next hd => exact Or.inl ⟨hd, h⟩
  · next hd =>
    obtain ⟨sl, s1, h1, h2⟩ := Res.bind_eq_ok h
    exact Or.inr ⟨by simpa using hd, sl, s1, h1, h2⟩

theorem gated_frame {str : Stream} {strobe : Nat} {next : State → Res Slot} (hf : NextSlotFrame next)
    {s t : State} {lat : Nat} (h : gated str strobe next s = .ok lat t) :
    KeepsControl s t ∧ t.fault = s.fault ∧ 1 ≤ lat := by
  rcases gated_ok h with ⟨-, h⟩ | ⟨-, sl, s1, h1, h2⟩
  · exact iterate_frame h
  · obtain ⟨ts, rfl⟩ := hf h1
    have := iterate_frame h2
    simpa [KeepsControl] using this

/-- A stream step of any selector leaves the control state alone, raises nothing when it answers, and costs
at least 1 (43_scheduler R118, R135). -/
theorem doStep_frame {sel : BitVec 3} {s t : State} {lat : Nat} (h : doStep sel s = .ok lat t) :
    KeepsControl s t ∧ t.fault = s.fault ∧ 1 ≤ lat := by
  unfold doStep at h
  split at h
  · cases h; simp [KeepsControl]
  split at h
  · exact gated_frame nextW_frame h
  split at h
  · exact gated_frame nextX_frame h
  split at h
  · exact gated_frame nextY_frame h
  split at h
  · exact gated_frame nextZ_frame h
  · cases h

/-- Every micro-step that answers returns a latency of at least 1, so the loop of `SCHED.INVOKE` runs exactly
one (43_scheduler R118). -/
theorem microStep_latency_pos {s t : State} {lat : Nat} (h : microStep s = .ok lat t) : 1 ≤ lat := by
  have phase : ∀ {sel e}, microPhase sel e s = .ok lat t → 1 ≤ lat := by
    intro sel e hp
    obtain ⟨l, s1, h1, h2⟩ := Res.bind_eq_ok hp
    obtain ⟨_, s2, -, h3⟩ := Res.bind_eq_ok h2
    cases h3
    exact (doStep_frame h1).2.2
  unfold microStep at h
  split at h
  · obtain ⟨l, s1, h1, h2⟩ := Res.bind_eq_ok h
    cases h2
    exact (doStep_frame h1).2.2
  split at h
  · exact phase h
  split at h
  · exact phase h
  · cases h

/-! ## Positions -/

/-- Everything `next_position()` can do (43_scheduler R125). -/
theorem nextPosition_cases (e : State → Res Unit) (s : State) :
    (s.sch.sub + 1 ≠ s.par.nsub ∧
      nextPosition e s = .ok () (s.setSch { s.sch with sub := s.sch.sub + 1 })) ∨
    (s.sch.sub + 1 = s.par.nsub ∧ s.sch.cyc + 1 ≠ s.par.ncyc ∧
      nextPosition e s = .ok () (s.setSch { s.sch with sub := 0, cyc := s.sch.cyc + 1 })) ∨
    (s.sch.sub + 1 = s.par.nsub ∧ s.sch.cyc + 1 = s.par.ncyc ∧
      nextPosition e s = e (s.setSch { s.sch with sub := 0, cyc := 0 })) := by
  by_cases h1 : s.sch.sub + 1 = s.par.nsub
  · by_cases h2 : s.sch.cyc + 1 = s.par.ncyc
    · exact Or.inr (Or.inr ⟨h1, h2, by simp [nextPosition, h1, h2]⟩)
    · exact Or.inr (Or.inl ⟨h1, h2, by simp [nextPosition, h1, h2]⟩)
  · exact Or.inl ⟨h1, by simp [nextPosition, h1]⟩

/-! ## Shapes of tile buffers -/

@[simp] theorem ringSet_length (line : List TileElem) :
    ∀ (row : List TileElem) (c : Nat), (ringSet row c line).length = row.length := by
  induction line with
  | nil => intro row c; rfl
  | cons v vs ih => intro row c; simp [ringSet, ih]

@[simp] theorem bytesToLine_length (count eb : Nat) (bytes : List (Option Byte)) :
    (bytesToLine count eb bytes).length = count := by simp [bytesToLine]

theorem zeros_shape (rows cols : Nat) : BufShape (TileBuf.zeros rows cols) rows cols := by
  refine ⟨by simp [TileBuf.zeros], fun r hr => ?_⟩
  rw [List.eq_of_mem_replicate hr, List.length_replicate]

theorem unloaded_shape (rows cols : Nat) : BufShape (TileBuf.unloaded rows cols) rows cols := by
  refine ⟨by simp [TileBuf.unloaded], fun r hr => ?_⟩
  rw [List.eq_of_mem_replicate hr, List.length_replicate]

theorem kernelTile_shape (p : Params) (ts : TileStore) (x w : TileBuf) (n : Nat) :
    BufShape (kernelTile p ts x w n) p.aw p.aw := by
  refine ⟨by simp [kernelTile], fun r hr => ?_⟩
  obtain ⟨i, -, rfl⟩ := List.mem_map.1 hr
  simp

theorem set_shape {b : TileBuf} {rows cols : Nat} (h : BufShape b rows cols) (r : Nat)
    (line : List TileElem) (hl : line.length = cols) : BufShape (b.set r line) rows cols := by
  refine ⟨by simp [h.1], fun row hr => ?_⟩
  rcases List.mem_or_eq_of_mem_set hr with h1 | rfl
  · exact h.2 row h1
  · exact hl

theorem modify_ringSet_shape {b : TileBuf} {rows cols : Nat} (h : BufShape b rows cols) (r c : Nat)
    (line : List TileElem) : BufShape (b.modify r (fun row => ringSet row c line)) rows cols := by
  refine ⟨by simp [h.1], fun row hr => ?_⟩
  obtain ⟨k, hk, rfl⟩ := List.getElem_of_mem hr
  rw [List.getElem_modify]
  have hk' : k < b.length := by simpa using hk
  split
  · rw [ringSet_length]; exact h.2 _ (List.getElem_mem hk')
  · exact h.2 _ (List.getElem_mem hk')

end Sys2Proof.Machine
end

