-- ==== Sys2Proof/Laws/Turn.lean ====
section
/-! SUPPORT. The stream step of the next micro-step, said once: what `turn` names is what the micro-step runs,
and what a stream step, a micro-step and an invocation are when that step raises (43_scheduler R118 to R127). -/

namespace Sys2Proof.Machine

/-- The selector code of a turn (30_encoding R69). -/
def turnSel : Option Stream → BitVec 3
  | none => selNone
  | some .w => selW
  | some .x => selX
  | some .y => selY
  | some .z => selZ

/-- The operation of a turn is the dispatch on its selector (R120). -/
theorem exec_turnStep (o : Option Stream) (s : State) :
    exec (turnStep o) s = unlessStopped s (finish (doStep (turnSel o) s) .latency) := by
  rcases o with _ | _ | _ | _ | _ <;> rfl

/-- In STARTING the turn is the preload's (R121). -/
theorem turnSel_starting {s : State} (h : s.sch.state = stStarting) :
    (if s.sch.pre < s.par.npreY then selY else selX) = turnSel (turn s) := by
  by_cases hp : s.sch.pre < s.par.aw <;> simp [turn, h, Params.npreY, hp, turnSel]

/-- In COMPUTING the turn is R123's selector. -/
theorem turnSel_computing {s : State} (h : s.sch.state = stComputing) :
    select s.par (payloadComputing s.par s.sch.hyper s.sch.cyc) s.sch.sub = turnSel (turn s) := by
  by_cases h0 : s.sch.sub = 0
  · simp [turn, h, select, h0, turnSel]
  · by_cases hs : s.sch.sub ≤ s.par.pr <;> by_cases hh : s.sch.hyper = 0#32 <;>
      by_cases hc : s.sch.cyc ∈ s.par.xload <;>
      simp [turn, h, select, payloadComputing, Params.npay, h0, hs, hh, hc, turnSel]

/-- In STORING the turn is R123's selector. -/
theorem turnSel_storing {s : State} (h : s.sch.state = stStoring) :
    select s.par (payloadStoring s.par s.sch.cyc) s.sch.sub = turnSel (turn s) := by
  by_cases h0 : s.sch.sub = 0
  · simp [turn, h, select, h0, turnSel]
  · by_cases hs : s.sch.sub ≤ s.par.pr
    · have hn : ¬ s.par.pr < s.sch.sub := by omega
      by_cases c0 : s.sch.cyc = 0 <;> by_cases c1 : s.sch.cyc = 1 <;>
        by_cases c2 : s.sch.cyc + 2 = s.par.h <;>
        simp [turn, h, select, payloadStoring, Params.npay, Params.ncyc, h0, hs, hn, c0, c1, c2, turnSel]
    · have hn : s.par.pr < s.sch.sub := by omega
      simp [turn, h, select, Params.npay, h0, hs, hn, turnSel]

/-- A running state runs the micro-step of its code, and a fatal condition of the stream step ends it there
(R118: nothing after it is done). -/
theorem micro_fatal {s t : State}
    (hs : s.sch.state = stStarting ∨ s.sch.state = stComputing ∨ s.sch.state = stStoring)
    (h : doStep (turnSel (turn s)) s = .fatal t) :
    microStep s = .fatal t ∧ (s.fault = none → exec (microInstr s) s = .next t) := by
  rcases hs with hs | hs | hs
  · have hm : microStarting s = .fatal t := by
      simp only [microStarting, turnSel_starting hs, h]; rfl
    refine ⟨by simp [microStep, hs, hm], fun hf => ?_⟩
    have he : microInstr s = .fsmStarting := by simp [microInstr, hs]
    rw [he]; simp [exec, execFsmStarting, unlessStopped, hf, hm, finish]
  · have hm : microComputing s = .fatal t := by
      simp only [microComputing, microPhase, turnSel_computing hs, h]; rfl
    refine ⟨by simp [microStep, hs, hm], fun hf => ?_⟩
    have he : microInstr s = .fsmComputing := by simp [microInstr, hs]
    rw [he]; simp [exec, execFsmComputing, unlessStopped, hf, hm, finish]
  · have hm : microStoring s = .fatal t := by
      simp only [microStoring, microPhase, turnSel_storing hs, h]; rfl
    refine ⟨by simp [microStep, hs, hm], fun hf => ?_⟩
    have he : microInstr s = .fsmStoring := by simp [microInstr, hs]
    rw [he]; simp [exec, execFsmStoring, unlessStopped, hf, hm, finish]

end Sys2Proof.Machine
end

