-- ==== Sys2Proof/Laws/Words.lean ====
section
/-! SUPPORT. The fields of a word that was put together from them (spec/30_encoding.md rules R60, R62,
R63). -/

namespace Sys2Proof

/-- The bits of two fields put side by side. -/
theorem getLsbD_fields {m n : Nat} (hi : BitVec m) (lo : BitVec n) (k : Nat) :
    (hi ++ lo).getLsbD k = if k < n then lo.getLsbD k else hi.getLsbD (k - n) := by
  rw [BitVec.getLsbD_append]

/-- The high field of two fields put side by side. -/
theorem extract_high {m n : Nat} (hi : BitVec m) (lo : BitVec n) : (hi ++ lo).extractLsb' n m = hi := by
  ext k hk
  rw [BitVec.getElem_extractLsb', getLsbD_fields, if_neg (by omega), Nat.add_sub_cancel_left,
    BitVec.getLsbD_eq_getElem hk]

/-- The low field of two fields put side by side. -/
theorem extract_low {m n : Nat} (hi : BitVec m) (lo : BitVec n) : (hi ++ lo).extractLsb' 0 n = lo := by
  ext k hk
  rw [BitVec.getElem_extractLsb', getLsbD_fields, if_pos (by omega), Nat.zero_add,
    BitVec.getLsbD_eq_getElem hk]

/-- A word is its high and its low field put side by side. -/
theorem append_extract {m n : Nat} (v : BitVec (m + n)) :
    v.extractLsb' n m ++ v.extractLsb' 0 n = v := by
  ext k hk
  rw [BitVec.getElem_append]
  split
  · simp [BitVec.getElem_extractLsb', BitVec.getLsbD_eq_getElem hk]
  · next h => simp [BitVec.getElem_extractLsb', show n + (k - n) = k by omega, BitVec.getLsbD_eq_getElem hk]

@[simp] theorem hcOffset_append (offset : BitVec 8) (wdata : Word) :
    hcOffset (offset ++ wdata) = offset := extract_high offset wdata

@[simp] theorem hcData_append (offset : BitVec 8) (wdata : Word) :
    hcData (offset ++ wdata) = wdata := extract_low offset wdata

@[simp] theorem hcOffset_append_hcData (word : BitVec 40) : hcOffset word ++ hcData word = word :=
  append_extract (m := 8) (n := 32) word

@[simp] theorem iterRows_packIter (rows cols : BitVec 16) : iterRows (packIter rows cols) = rows :=
  extract_high rows cols

@[simp] theorem iterCols_packIter (rows cols : BitVec 16) : iterCols (packIter rows cols) = cols :=
  extract_low rows cols

@[simp] theorem packIter_fields (v : Word) : packIter (iterRows v) (iterCols v) = v :=
  append_extract (m := 16) (n := 16) v

end Sys2Proof
end

