-- ==== Sys2Proof/WellFormed.lean ====
section
/-! DEFINITION. The operand ranges the spec states for an operation, as a check on its syntax for
given parameters. Only `UNIT` operations have operands that can be out of range: every word of the
other formats that decodes is well formed ("all values of `wdata` are legal", 30_encoding R61). -/

namespace Sys2Proof

/-- A leftover count is `0..AW-1` (10_state R15, 44_strobe R143). -/
def leftoverInRange (p : Params) (l : Nat) : Bool := decide (l < p.aw)

/-- A slot of the kinds and fixed extents of 42_tile_store R100 to R103 (W rows and X columns are bounded
by the run-time allocation, not here). -/
def Slot.inRange (p : Params) : Slot → Bool
  | .w _ => true
  | .x row _ => decide (row < p.aw)
  | .y row => decide (row < 2 * p.aw)
  | .z row => decide (row < p.aw)

/-- A strobe is `LB` bits (10_state R22, 30_encoding R70). -/
def strobeInRange (p : Params) (m : Nat) : Bool := decide (m < 2 ^ p.lb)

/-- Well-formedness: `SG.CONFIGURE` has lengths of at least 1 (41_stride_generator R86), `SG.ITERATE` a
slot and a strobe of the block's extent (R88), `TS.ALLOC` an `n` of at least 1 and leftovers below `AW`
(42_tile_store R98, R104), `MKSTROBE` a count below `AW` and a width of 1, 2 or 4 (44_strobe R143). -/
def Instr.wellFormed (p : Params) : Instr → Bool
  | .sgConfigure _ _ _ d0Len _ d1Len _ d2Len _ _ =>
      decide (d0Len ≠ 0) && decide (d1Len ≠ 0) && decide (d2Len ≠ 0)
  | .sgIterate _ slot strobe =>
      (match slot with
        | none => true
        | some sl => sl.inRange p) && strobeInRange p strobe
  | .tsAlloc n xRowLo xColLo wRowLo wColLo =>
      decide (n ≠ 0) && leftoverInRange p xRowLo.toNat && leftoverInRange p xColLo.toNat &&
        leftoverInRange p wRowLo.toNat && leftoverInRange p wColLo.toNat
  | .mkstrobe count width =>
      leftoverInRange p count && decide (width = 1 ∨ width = 2 ∨ width = 4)
  | _ => true

end Sys2Proof
end

