-- ==== Sys2Proof/Tests/Slice0.lean ====
section
/-! SUPPORT. Tests: words written out from the spec's encodings, ill-formed terms the check refuses, single
steps against the vectors of spec/95_test_vectors.md, and for every statement that has hypotheses a witness
that meets them. -/

namespace Sys2Proof.Tests

open Sys2Proof Sys2Proof.Machine

set_option Elab.async false
set_option synthInstance.maxSize 4000
set_option synthInstance.maxHeartbeats 400000

/-! ## Decoding: one word per operation, from 30_encoding R61, R65, R68, R69 -/

theorem test_decode_cfgwrXBase : decode (.hc 0x0000001000) = .ok (.cfgwrXBase 0x1000) := by decide
theorem test_decode_cfgwrWBase : decode (.hc 0x0480000001) = .ok (.cfgwrWBase 0x80000001) := by decide
theorem test_decode_cfgwrYBase : decode (.hc 0x08FFFFFFFF) = .ok (.cfgwrYBase 0xFFFFFFFF) := by decide
theorem test_decode_cfgwrZBase : decode (.hc 0x0C00004000) = .ok (.cfgwrZBase 0x4000) := by decide
theorem test_decode_cfgwrXTotLen : decode (.hc 0x1000000006) = .ok (.cfgwrXTotLen 6) := by decide
theorem test_decode_cfgwrWTotLen : decode (.hc 0x1400000007) = .ok (.cfgwrWTotLen 7) := by decide
theorem test_decode_cfgwrYTotLen : decode (.hc 0x1800000008) = .ok (.cfgwrYTotLen 8) := by decide
theorem test_decode_cfgwrZTotLen : decode (.hc 0x1C00000009) = .ok (.cfgwrZTotLen 9) := by decide
theorem test_decode_cfgwrXD0Len : decode (.hc 0x4000000002) = .ok (.cfgwrXD0Len 2) := by decide
theorem test_decode_cfgwrXD0Stride : decode (.hc 0x4400000018) = .ok (.cfgwrXD0Stride 0x18) := by decide
theorem test_decode_cfgwrXD1Len : decode (.hc 0x4800000003) = .ok (.cfgwrXD1Len 3) := by decide
theorem test_decode_cfgwrXD1Stride : decode (.hc 0x4C00000100) = .ok (.cfgwrXD1Stride 0x100) := by decide
theorem test_decode_cfgwrXD2Len : decode (.hc 0x5000000001) = .ok (.cfgwrXD2Len 1) := by decide
theorem test_decode_cfgwrXD2Stride : decode (.hc 0x5480000000) = .ok (.cfgwrXD2Stride 0x80000000) := by decide
theorem test_decode_cfgwrXD3Stride : decode (.hc 0x58FFFFFFF8) = .ok (.cfgwrXD3Stride 0xFFFFFFF8) := by decide
theorem test_decode_cfgwrWD0Len : decode (.hc 0x6000000004) = .ok (.cfgwrWD0Len 4) := by decide
theorem test_decode_cfgwrWD0Stride : decode (.hc 0x6400000018) = .ok (.cfgwrWD0Stride 0x18) := by decide
theorem test_decode_cfgwrWD1Len : decode (.hc 0x6800000005) = .ok (.cfgwrWD1Len 5) := by decide
theorem test_decode_cfgwrWD1Stride : decode (.hc 0x6C00000040) = .ok (.cfgwrWD1Stride 0x40) := by decide
theorem test_decode_cfgwrWD2Len : decode (.hc 0x7000000001) = .ok (.cfgwrWD2Len 1) := by decide
theorem test_decode_cfgwrWD2Stride : decode (.hc 0x7400000200) = .ok (.cfgwrWD2Stride 0x200) := by decide
theorem test_decode_cfgwrWD3Stride : decode (.hc 0x7800001000) = .ok (.cfgwrWD3Stride 0x1000) := by decide
theorem test_decode_cfgwrYD0Len : decode (.hc 0x8000000003) = .ok (.cfgwrYD0Len 3) := by decide
theorem test_decode_cfgwrYD0Stride : decode (.hc 0x8400000018) = .ok (.cfgwrYD0Stride 0x18) := by decide
theorem test_decode_cfgwrYD1Len : decode (.hc 0x8800000001) = .ok (.cfgwrYD1Len 1) := by decide
theorem test_decode_cfgwrYD1Stride : decode (.hc 0x8C00000020) = .ok (.cfgwrYD1Stride 0x20) := by decide
theorem test_decode_cfgwrYD2Len : decode (.hc 0x9000000002) = .ok (.cfgwrYD2Len 2) := by decide
theorem test_decode_cfgwrYD2Stride : decode (.hc 0x9400000030) = .ok (.cfgwrYD2Stride 0x30) := by decide
theorem test_decode_cfgwrYD3Stride : decode (.hc 0x9800000050) = .ok (.cfgwrYD3Stride 0x50) := by decide
theorem test_decode_cfgwrZD0Len : decode (.hc 0xA000000003) = .ok (.cfgwrZD0Len 3) := by decide
theorem test_decode_cfgwrZD0Stride : decode (.hc 0xA400000018) = .ok (.cfgwrZD0Stride 0x18) := by decide
theorem test_decode_cfgwrZD1Len : decode (.hc 0xA800000001) = .ok (.cfgwrZD1Len 1) := by decide
theorem test_decode_cfgwrZD1Stride : decode (.hc 0xAC00000020) = .ok (.cfgwrZD1Stride 0x20) := by decide
theorem test_decode_cfgwrZD2Len : decode (.hc 0xB000000002) = .ok (.cfgwrZD2Len 2) := by decide
theorem test_decode_cfgwrZD2Stride : decode (.hc 0xB400000030) = .ok (.cfgwrZD2Stride 0x30) := by decide
theorem test_decode_cfgwrZD3Stride : decode (.hc 0xB800000030) = .ok (.cfgwrZD3Stride 0x30) := by decide
theorem test_decode_trigger : decode (.hc 0x2C00000000) = .ok (.trigger 0) := by decide
theorem test_decode_irqclr : decode (.hc 0x30DEADBEEF) = .ok (.irqclr 0xDEADBEEF) := by decide
theorem test_decode_cfgwrWIter : decode (.hc 0x2000050007) = .ok (.cfgwrWIter 5 7) := by decide
theorem test_decode_cfgwrXIter : decode (.hc 0x2400020003) = .ok (.cfgwrXIter 2 3) := by decide
theorem test_decode_cfgwrLeftover : decode (.hc 0x28070A0B03) = .ok (.cfgwrLeftover 7 10 11 3) := by decide
theorem test_decode_fsmIdle : decode (.st 0b000) = .ok .fsmIdle := by decide
theorem test_decode_fsmStarting : decode (.st 0b001) = .ok .fsmStarting := by decide
theorem test_decode_fsmComputing : decode (.st 0b010) = .ok .fsmComputing := by decide
theorem test_decode_fsmStoring : decode (.st 0b011) = .ok .fsmStoring := by decide
theorem test_decode_fsmFinished : decode (.st 0b100) = .ok .fsmFinished := by decide
theorem test_decode_stepNone : decode (.sel 0b000) = .ok .stepNone := by decide
theorem test_decode_stepW : decode (.sel 0b001) = .ok .stepW := by decide
theorem test_decode_stepX : decode (.sel 0b010) = .ok .stepX := by decide
theorem test_decode_stepY : decode (.sel 0b011) = .ok .stepY := by decide
theorem test_decode_stepZ : decode (.sel 0b100) = .ok .stepZ := by decide

/-- A `UNIT` operation has no word (R59); it is carried as itself, and so is nothing else. -/
theorem test_decode_unit :
    decode (.unit (.sgConfigure .x 0x1000 6 2 24 3 0x100 1 0 0)) =
      .ok (.sgConfigure .x 0x1000 6 2 24 3 0x100 1 0 0) ∧
    decode (.unit (.sgIterate .z (some (.z 1)) 0xF)) = .ok (.sgIterate .z (some (.z 1)) 0xF) ∧
    decode (.unit (.sgIsdone .w)) = .ok (.sgIsdone .w) ∧
    decode (.unit (.tsAlloc 4 0 4 4 0)) = .ok (.tsAlloc 4 0 4 4 0) ∧
    decode (.unit .tsNextw) = .ok .tsNextw ∧ decode (.unit .tsNextx) = .ok .tsNextx ∧
    decode (.unit .tsNexty) = .ok .tsNexty ∧ decode (.unit .tsNextz) = .ok .tsNextz ∧
    decode (.unit .tsComputez) = .ok .tsComputez ∧ decode (.unit .tsFree) = .ok .tsFree ∧
    decode (.unit (.mkstrobe 2 2)) = .ok (.mkstrobe 2 2) ∧
    decode (.unit .schedEntry) = .ok .schedEntry ∧ decode (.unit .schedInvoke) = .ok .schedInvoke ∧
    decode (.unit .schedComplete) = .ok .schedComplete ∧
    decode (.unit .stepW) = .error .notUnit := by decide

/-- V7a: reserved offsets, among them the last before a block, a misaligned one and the two ends of the
range from 0xC0 up; 0xB8 is the last that is not reserved (R66). -/
theorem test_decode_reserved_offsets :
    decode (.hc 0x3400000000) = .error (.badOffset 0x34) ∧
    decode (.hc 0x5C00000000) = .error (.badOffset 0x5C) ∧
    decode (.hc 0xC000000000) = .error (.badOffset 0xC0) ∧
    decode (.hc 0xFF00000000) = .error (.badOffset 0xFF) ∧
    decode (.hc 0x0100000000) = .error (.badOffset 0x01) ∧
    decode (.hc 0xB800000000) = .ok (.cfgwrZD3Stride 0) := by decide

/-- R68, R69: the codes 5 to 7 carry nothing. -/
theorem test_decode_illegal_codes :
    decode (.st 5) = .error (.badState 5) ∧ decode (.st 7) = .error (.badState 7) ∧
    decode (.sel 5) = .error (.badSelector 5) ∧ decode (.sel 7) = .error (.badSelector 7) := by decide

/-- The host's numbering of a 40-bit word. -/
theorem test_decodeTableWord :
    decodeTableWord 40 0x6800000005 = some (.cfgwrWD1Len 5) ∧ decodeTableWord 40 0x3400000000 = none ∧
    decodeTableWord 8 3 = some .fsmStoring := by decide

/-! ## Well-formedness refuses an ill-formed term of each kind -/

theorem test_wellFormed_accepts :
    Instr.wellFormed .scenarioA (.sgConfigure .x 0 6 2 24 3 0x100 1 0 0) = true ∧
    Instr.wellFormed .scenarioA (.sgIterate .y (some (.y 23)) 0xFFFFFF) = true ∧
    Instr.wellFormed .scenarioA (.tsAlloc 1 11 11 11 11) = true ∧
    Instr.wellFormed .scenarioA (.mkstrobe 11 4) = true := by decide

theorem test_wellFormed_refuses_zero_lengths :
    Instr.wellFormed .scenarioA (.sgConfigure .x 0 6 0 24 3 0x100 1 0 0) = false ∧
    Instr.wellFormed .scenarioA (.sgConfigure .x 0 6 2 24 0 0x100 1 0 0) = false ∧
    Instr.wellFormed .scenarioA (.sgConfigure .x 0 6 2 24 3 0x100 0 0 0) = false := by decide

theorem test_wellFormed_refuses_slots_outside :
    Instr.wellFormed .scenarioA (.sgIterate .x (some (.x 12 0)) 0) = false ∧
    Instr.wellFormed .scenarioA (.sgIterate .y (some (.y 24)) 0) = false ∧
    Instr.wellFormed .scenarioA (.sgIterate .z (some (.z 12)) 0) = false := by decide

theorem test_wellFormed_refuses_wide_strobe :
    Instr.wellFormed .scenarioA (.sgIterate .z none 0x1000000) = false := by decide

theorem test_wellFormed_refuses_allocations :
    Instr.wellFormed .scenarioA (.tsAlloc 0 0 0 0 0) = false ∧
    Instr.wellFormed .scenarioA (.tsAlloc 4 12 0 0 0) = false ∧
    Instr.wellFormed .scenarioA (.tsAlloc 4 0 12 0 0) = false ∧
    Instr.wellFormed .scenarioA (.tsAlloc 4 0 0 12 0) = false ∧
    Instr.wellFormed .scenarioA (.tsAlloc 4 0 0 0 12) = false := by decide

theorem test_wellFormed_refuses_strobe_operands :
    Instr.wellFormed .scenarioA (.mkstrobe 12 2) = false ∧
    Instr.wellFormed .scenarioA (.mkstrobe 3 3) = false := by decide

/-! ## Small states -/

/-- A small block: `H = 2, PR = 1, PD = 1`, so `AW = 2`, `LB = 4` at `EB = 2` (the array of vector V20). -/
def small : Params := { h := 2, pr := 1, pd := 1, eb := 2, xload := [0], num := .standard }

/-- The block of vector V26 and program P3: `H = 2, PR = 2, PD = 2`. -/
def square : Params := { h := 2, pr := 2, pd := 2, eb := 2, xload := [0], num := .standard }

/-- The nine registers of a stream of two lines of 4 bytes. -/
def twoLines (base : Word) : StreamCfg :=
  { base := some base, totLen := some 2, d0Len := some 2, d0Stride := some 4, d1Len := some 1,
    d1Stride := some 0, d2Len := some 1, d2Stride := some 0, d3Stride := some 0 }

/-- One X row tile, one W column tile, a W-column leftover of 1, `n = 2`. -/
def smallConfig : JobConfig :=
  { x := twoLines 0x1000, w := twoLines 0x2000, y := twoLines 0x3000, z := twoLines 0x4000,
    wIter := some 0x00010001, xIter := some 0x00010001, leftover := some 0x00000001 }

/-- Configured and idle; the memory answers the next access with latency 3. -/
def idle : State := { State.initial small with cfg := smallConfig, memAnswers := [⟨.success, 3⟩] }

/-- Right after TRIGGER. -/
def starting : State := entered idle

/-- At the first micro-step of COMPUTING. -/
def computing : State := { starting with sch := { starting.sch with state := 2, pre := 6 } }

/-- At the last micro-step of the last COMPUTING hypercycle. -/
def computingLast : State := { starting with sch := { starting.sch with state := 2, pre := 6, cyc := 1, sub := 1 } }

/-- In STORING, cycle 0, at the payload subcycle. -/
def storing : State := { starting with sch := { starting.sch with state := 3, pre := 6, sub := 1 } }

/-- In FINISHED, the completion continuation pending. -/
def finished : State :=
  { starting with mainPending := false, donePending := true,
                  sch := { starting.sch with state := 4, pre := 6, jobDone := true, xRowsIters := 1 } }

/-- Stopped by a write to a reserved offset. -/
def stopped : State := { idle with fault := some (.badOffset 0x34) }

/-- The memory answers the next access with an error. -/
def failing (s : State) : State := { s with memAnswers := [⟨.other 1, 3⟩] }

/-- The next state of an outcome. -/
def nextOf (o : Host.Outcome State Fault Refusal) : Option State :=
  match o with
  | .next t => some t
  | .fault _ => none
  | .refused _ => none

/-- What the next state of a step holds. -/
def seen {α : Type} (o : Host.Outcome State Fault Refusal) (f : State → α) : Option α := (nextOf o).map f

/-! ## Single steps: host commands (vectors V1, V30 to V37) -/

/-- V1, through the whole path: place the word, step, read the register. -/
theorem test_step_cfgwr :
    seen (step (State.reset.withFetchWord 40 0x0000001000)) (fun t => t.cfg.x.base) =
      some (some 0x1000) := by decide +kernel

/-- R77: "`cfgwr X_ITER, 2:3` stores `0x00020003`". -/
theorem test_cfgwr_xIter : seen (exec (.cfgwrXIter 2 3) State.reset) (fun t => t.cfg.xIter) =
    some (some 0x00020003) := by decide +kernel

/-- V30: `TRIGGER` after reset. -/
theorem test_trigger_unwritten : seen (exec (.trigger 0) State.reset) (fun t => t.fault.map fatalCode) =
    some (some 7) := by decide +kernel

/-- V31: all written, `X_ITER = 0:1`. -/
theorem test_trigger_zero_rows :
    seen (exec (.trigger 0) { idle with cfg := { smallConfig with xIter := some 1 } }) (fun t => t.fault) =
      some (some (.badConfig .zeroCount)) := by decide +kernel

/-- V32: a leftover of `AW`. -/
theorem test_trigger_leftover :
    seen (exec (.trigger 0) { idle with cfg := { smallConfig with leftover := some 2 } }) (fun t => t.fault) =
      some (some (.badConfig .leftoverTooLarge)) := by decide +kernel

/-- R79 d: a dimension length of 0. -/
theorem test_trigger_zero_length :
    seen (exec (.trigger 0)
      { idle with cfg := { smallConfig with y := { twoLines 0x3000 with d1Len := some 0 } } })
      (fun t => t.fault) = some (some (.badConfig .zeroLength)) := by decide +kernel

/-- R78, R80: a valid `TRIGGER`. `n = (1-1)·2 + 2`, `WCAP = 2`, `XCAP = 2 + 2·2·2`. -/
theorem test_trigger_starts :
    seen (exec (.trigger 5) idle) (fun t => (t.sch.state, t.mainPending, t.ts.wCap, t.ts.xCap, t.irq)) =
      some (1, true, 2, 10, false) := by decide +kernel

/-- V33. -/
theorem test_trigger_busy : seen (exec (.trigger 0) computing) (fun t => t.fault) =
    some (some (.triggerWhileBusy 2)) := by decide +kernel

/-- V34. -/
theorem test_cfgwr_busy : seen (exec (.cfgwrYBase 0) starting) (fun t => t.fault) =
    some (some (.cfgWhileBusy 0x08)) := by decide +kernel

/-- V35, and R83: `IRQCLR` while a job is active leaves it alone. -/
theorem test_irqclr :
    seen (exec (.irqclr 0) { storing with irq := true }) (fun t => (t.irq, t.sch.state)) =
      some (false, 3) := by decide +kernel

/-- V36: a job just completed has no configuration left. -/
theorem test_trigger_after_completion :
    seen (exec (.trigger 0) (complete finished))
      (fun t => t.fault) = some (some (.badConfig .unwritten)) := by decide +kernel

/-- V37: a stopped block ignores commands. -/
theorem test_stopped_ignores :
    nextOf (exec (.irqclr 0) { stopped with irq := true }) = some { stopped with irq := true } ∧
    nextOf (exec (.cfgwrXBase 1) stopped) = some stopped := by decide +kernel

/-- V7a as a step: the offset is recorded. -/
theorem test_step_reserved_offset :
    seen (step { idle with inbox := [.word (.hc 0x5C00000001)] }) (fun t => (t.fault, t.inbox)) =
      some (some (.badOffset 0x5C), []) := by decide +kernel

/-! ## Single steps: streams (vectors V13 to V19a) -/

/-- The descriptor of V13. -/
def v13 : StreamDesc := configured 0x1000 6 2 24 3 0x100 1 0 0

/-- V13: the six addresses. -/
theorem test_stream_addresses :
    (List.range 6).map (fun t => ((List.replicate t 0).foldl StreamDesc.afterStep v13).addr) =
      [0x1000, 0x1018, 0x1100, 0x1118, 0x1200, 0x1218] := by decide +kernel

/-- V13: after step 2, and after step 6. -/
theorem test_stream_positions :
    (let d := (StreamDesc.afterStep (StreamDesc.afterStep v13 0) 0);
      (d.d0Pos, d.d0Cnt, d.d1Pos, d.d1Cnt)) = (0, 0, 0x100, 1) ∧
    (let d := (List.replicate 6 0).foldl StreamDesc.afterStep v13;
      (d.d0Pos, d.d1Pos, d.d0Cnt, d.d1Cnt, d.d2Cnt, d.doneCnt)) = (0, 0, 0, 0, 0, 6) := by decide +kernel

/-- V14: the carry through four levels, at steps 8 and 15 (0-based). -/
theorem test_stream_carry :
    [8, 15].map (fun t => ((List.replicate t 0).foldl StreamDesc.afterStep
      (configured 0 16 2 0x1 2 0x10 2 0x100 0x1000)).addr) = [0x1000, 0x1111] := by decide +kernel

/-- V15, V16: addresses and strides wrap at 2^32. -/
theorem test_stream_wraps :
    (StreamDesc.afterStep (configured 0xFFFFFFF8 2 2 0x10 1 0 1 0 0) 0).addr = 0x8 ∧
    (StreamDesc.afterStep (configured 0x100 3 3 0xFFFFFFF8 1 0 1 0 0) 0).addr = 0xF8 := by decide +kernel

/-- V18: `tot_len` reached inside a dimension restarts the positions. -/
theorem test_stream_restart :
    (let d := (List.replicate 3 0).foldl StreamDesc.afterStep (configured 0 3 4 8 1 0 1 0 0);
      (d.d0Pos, d.d0Cnt, d.doneCnt)) = (0, 0, 3) := by decide +kernel

/-- R86 and V19a: `SG.ISDONE` right after `SG.CONFIGURE` with `tot_len = 0`. -/
theorem test_sgConfigure_isdone :
    seen (exec (.sgConfigure .w 7 0 1 0 1 0 1 0 0) idle) (fun t => (t.sg.w.base, isDone .w t)) =
      some (7, true) := by decide +kernel

theorem test_sgIsdone : seen (exec (.sgIsdone .y) starting) (fun t => t.result) =
    some (.truth false) := by decide +kernel

/-- V17: a bubble. -/
theorem test_sgIterate_bubble :
    seen (exec (.sgIterate .w none 0xF) starting) (fun t => (t.result, t.sg.w.latCum, t.sg.w.doneCnt)) =
      some (.latency 1, 1, 0) := by decide +kernel

/-- V19: a status other than success; slot and position keep their values. -/
theorem test_sgIterate_fault :
    seen (exec (.sgIterate .w (some (.w 0)) 0xF) (failing starting))
      (fun t => (t.fault, t.sg.w.doneCnt, decide (t.ts.w = starting.ts.w))) =
      some (some (.memStatus .w 0x2000 (.other 1)), 0, true) := by decide +kernel

/-! ## Single steps: tile store (vectors V19b to V22) -/

/-- V19b: `n = 4` with leftovers 4 at the defaults: `WCAP = 12`, `XCAP = 44`. -/
theorem test_tsAlloc :
    seen (exec (.tsAlloc 4 0 4 4 0) State.reset) (fun t => (t.ts.wCap, t.ts.xCap, t.ts.allocated)) =
      some (12, 44, true) := by decide +kernel

/-- V22: what `TS.FREE` leaves. -/
theorem test_tsFree :
    seen (exec .tsFree storing) (fun t => (decide (t.ts = TileStore.free small), t.ts.z.elem 0 0)) =
      some (true, some 0) := by decide +kernel

/-- V19c: the W ring wraps at `WCAP = 2`. -/
theorem test_tsNextw :
    seen (exec .tsNextw { starting with ts := { starting.ts with wCnt := 1 } })
      (fun t => (t.result, t.ts.wCnt)) = some (.slot (.w 1), 0) := by decide +kernel

/-- V19d: after `AW` rows the column cursor moves, modulo `XCAP = 10`. -/
theorem test_tsNextx :
    seen (exec .tsNextx { starting with ts := { starting.ts with xI := 1, xC := 8 } })
      (fun t => (t.result, t.ts.xI, t.ts.xC)) = some (.slot (.x 1 8), 0, 0) := by decide +kernel

/-- V19e: the Y half the offset selects. -/
theorem test_tsNexty :
    seen (exec .tsNexty { starting with ts := { starting.ts with yOffs := 2, yCnt := 1 } })
      (fun t => (t.result, t.ts.yCnt)) = some (.slot (.y 3), 0) := by decide +kernel

/-- V19f: Z wraps at `AW`. -/
theorem test_tsNextz :
    seen (exec .tsNextz { starting with ts := { starting.ts with zCnt := 1 } })
      (fun t => (t.result, t.ts.zCnt)) = some (.slot (.z 1), 0) := by decide +kernel

/-- The X rows of V20 at columns 12, 13, 0, 1, 2; the other nine columns without value. -/
def v20x : TileBuf :=
  [[some 0x4200, some 0x4400, some 0x4500] ++ List.replicate 9 none ++ [some 0x3C00, some 0x4000],
   [some 0xBC00, some 0, some 0x3800] ++ List.replicate 9 none ++ [some 0x3C00, some 0]]

/-- The W rows of V20. -/
def v20w : TileBuf :=
  [[some 0x3C00, some 0x3C00], [some 0x4000, some 0], [some 0x4200, some 0x3C00], [some 0x4400, some 0],
   [some 0x4000, some 0x4000]]

/-- The Y rows of V20 in the half that `y_offs = 0` selects. -/
def v20y : TileBuf := [[some 0x4900, some 0x4D00], [some 0, some 0x3800], [none, none], [none, none]]

/-- V20: `n = 5`, `x_col_lo = 1` (so `xpad = 1`), `x_offs = 12`, `y_offs = 0`. -/
def v20 : State :=
  { starting with
    job := starting.job.map (fun j => { j with n := 5, xpad := 1 })
    ts := { starting.ts with x := some v20x, w := some v20w, y := v20y, xOffs := 12, yOffs := 0 } }

theorem test_tsComputez :
    seen (exec .tsComputez v20) (fun t => (t.ts.z, t.ts.xOffs, t.ts.yOffs)) =
      some ([[some 0x5240, some 0x5040], [some 0xBC00, some 0x3E00]], 4, 2) := by decide +kernel

/-- V21: an X element never loaded. -/
theorem test_tsComputez_noValue :
    seen (exec .tsComputez { v20 with ts := { v20.ts with x := some (v20x.modify 1 (fun r => r.set 0 none)) } })
      (fun t => t.ts.z) = some [[some 0x5240, some 0x5040], [none, none]] := by decide +kernel

/-! ## The fused multiply-add, by hand from IEEE 754 -/

/-- `(1 + 2^-10)^2` rounds to `1 + 2^-9`; `65504 · 2` overflows; halves of subnormals tie to even. -/
theorem test_fma_rounding :
    binary16.fma 0 0x3C01 0x3C01 0 = 0x3C02 ∧ binary16.fma 0 0x7BFF 0x4000 0 = 0x7C00 ∧
    binary16.fma 0 0x0001 0x3800 0 = 0x0000 ∧ binary16.fma 0 0x0003 0x3800 0 = 0x0002 ∧
    binary32.fma 0 0x3F800000 0x40000000 0xC0400000 = 0xBF800000 := by decide +kernel

/-- One rounding: `(1 + 2^-10)^2 - (1 + 2^-9) = 2^-20`, which two roundings would lose. -/
theorem test_fma_fused : binary16.fma 0 0x3C01 0x3C01 0xBC02 = 0x0010 := by decide +kernel

/-- Infinity times zero, and the sum of opposite infinities, are NaN; zeros of opposite signs add to `+0`. -/
theorem test_fma_special :
    binary16.isNan (binary16.fma 0 0x7C00 0 0x3C00) = true ∧
    binary16.isNan (binary16.fma 5 0x7C00 0x3C00 0xFC00) = true ∧
    binary16.fma 0 0x0000 0x3C00 0x8000 = 0x0000 ∧ binary16.fma 0 0x8000 0x3C00 0x8000 = 0x8000 := by
  decide +kernel

/-! ## Single steps: strobes (vectors V8 to V12) -/

theorem test_mkstrobe_vectors :
    mkStrobe .scenarioA 1 1 = some 0x1 ∧ mkStrobe .scenarioA 1 2 = some 0x3 ∧
    mkStrobe .scenarioA 1 4 = some 0xF ∧ mkStrobe .scenarioA 2 2 = some 0xF ∧
    mkStrobe .scenarioA 3 4 = some 0xFFF ∧ mkStrobe .scenarioA 11 2 = some 0x3FFFFF ∧
    mkStrobe { Params.scenarioA with eb := 4 } 11 4 = some 0xFFFFFFFFFFF ∧
    mkStrobe .scenarioA 5 2 = some 0x3FF ∧ mkStrobe .scenarioA 0 2 = some 0 := by decide +kernel

theorem test_mkstrobe : seen (exec (.mkstrobe 2 2) State.reset) (fun t => t.result) =
    some (.strobe 0xF) := by decide +kernel

/-! ## Single steps: stream steps -/

/-- `STEP.NONE` charges no stream (R135). -/
theorem test_stepNone : seen (exec .stepNone starting) (fun t => (t.result, decide (t.sg = starting.sg))) =
    some (.latency 1, true) := by decide +kernel

/-- Two elements, `0x3C00` and one with an unknown byte, at an address. -/
def withLine (s : State) (a : Nat) : State :=
  { s with mem := [(a, (0x00 : BitVec 8)), (a + 1, 0x3C), (a + 2, 0x55)] }

/-- R136: the first W step fills `ts.w[0]` from `W_BASE`, low byte first; the result is latency plus 1. -/
theorem test_stepW :
    seen (exec .stepW (withLine starting 0x2000)) (fun t =>
      (t.result, t.ts.w.map (fun b => b.take 1), t.ts.wCnt, t.sg.w.addr)) =
      some (.latency 4, some [[some 0x3C00, none]], 1, 0x2004) := by decide +kernel

theorem test_stepX :
    seen (exec .stepX (withLine starting 0x1000)) (fun t =>
      (t.ts.x.map (fun b => b.map (fun r => r.take 3)), t.ts.xI, t.sg.x.doneCnt)) =
      some (some [[some 0x3C00, none, none], [none, none, none]], 1, 1) := by decide +kernel

theorem test_stepY :
    seen (exec .stepY (withLine starting 0x3000)) (fun t => (t.ts.y.take 2, t.ts.yCnt)) =
      some ([[some 0x3C00, none], [some 0, some 0]], 1) := by decide +kernel

/-- V29: a step on a stream that is done is a bubble and its cursor stays. -/
theorem test_stepW_done :
    seen (exec .stepW { starting with sg := { starting.sg with w := { starting.sg.w with doneCnt := 2 } } })
      (fun t => (t.result, t.ts.wCnt, t.sg.w.latCum)) = some (.latency 1, 0, 1) := by decide +kernel

/-- R139: a Z step under the strobe of one element of two bytes; the other two bytes stay. -/
theorem test_stepZ :
    seen (exec .stepZ
      { storing with
        ts := { storing.ts with z := [[some 0x4980, some 0x5430], [some 0, some 0]] }
        sch := { storing.sch with zStrb := 0x3 }
        mem := [(0x4000, (0xAA : BitVec 8)), (0x4001, 0xAA), (0x4002, 0xAA)] })
      (fun t => (t.mem, t.ts.zCnt, t.sg.z.doneCnt)) =
      some ([(0x4000, (0x80 : BitVec 8)), (0x4001, 0x49), (0x4002, 0xAA)], 1, 1) := by decide +kernel

/-! ## Single steps: the scheduler -/

/-- V23: the selectors of Scenario A, COMPUTING with `hyper = 0` and STORING, by cycle and subcycle. -/
theorem test_selectors :
    (List.range 4).map (fun c => (List.range 4).map (fun q =>
      (select .scenarioA (payloadComputing .scenarioA 0 c) q).toNat)) =
      [[1, 0, 0, 0], [1, 0, 0, 0], [1, 2, 2, 2], [1, 0, 0, 0]] ∧
    (List.range 4).map (fun c => (List.range 4).map (fun q =>
      (select .scenarioA (payloadStoring .scenarioA c) q).toNat)) =
      [[1, 4, 4, 4], [1, 3, 3, 3], [1, 2, 2, 2], [1, 0, 0, 0]] := by decide +kernel

/-- V25: with `H = 2` the X-reload loses to the Z-store. -/
theorem test_selectors_square :
    (List.range 2).map (fun c => (List.range 3).map (fun q =>
      (select square (payloadStoring square c) q).toNat)) = [[1, 4, 4], [1, 3, 3]] := by decide +kernel

/-- R121: the last preload step is an X step and leaves COMPUTING. -/
theorem test_fsmStarting :
    seen (exec .fsmStarting { starting with sch := { starting.sch with pre := 5 } })
      (fun t => (t.sch.state, t.sch.pre, t.sg.x.doneCnt, t.sg.y.doneCnt)) = some (2, 6, 1, 0) := by
  decide +kernel

theorem test_fsmIdle : nextOf (exec .fsmIdle idle) = some idle := by decide +kernel

/-- R126, V28: the end of the last hypercycle computes, counts, and leaves STORING; the W-column leftover of 1
gives the strobe 0x3. -/
theorem test_fsmComputing :
    seen (exec .fsmComputing computingLast)
      (fun t => (t.sch.state, t.sch.hyper, t.sch.jobDone, t.sch.zStrb, t.ts.xOffs, t.ts.yOffs)) =
      some (3, 0, true, 0x3, 2, 2) := by decide +kernel

/-- R125: subcycle 0 of COMPUTING is a W step. -/
theorem test_fsmComputing_first :
    seen (exec .fsmComputing computing) (fun t => (t.sg.w.doneCnt, t.sch.sub)) = some (1, 1) := by
  decide +kernel

/-- R127: a Z step on the payload subcycle of cycle 0, then the next cycle. -/
theorem test_fsmStoring :
    seen (exec .fsmStoring storing) (fun t => (t.sg.z.doneCnt, t.sch.cyc, t.sch.sub)) =
      some (1, 1, 0) := by decide +kernel

/-- R130: the end of the STORING hypercycle of a job that is done. -/
theorem test_fsmStoring_last :
    seen (exec .fsmStoring { storing with sch := { storing.sch with cyc := 1, jobDone := true } })
      (fun t => t.sch.state) = some 4 := by decide +kernel

/-- V26: `w_cols = 3, x_rows = 2, w_col_lo = 5, x_row_lo = 7`, at passes 0, 2 and 5. -/
def v26 (cols rows : BitVec 16) : Sched :=
  bookkept .scenarioA
    { wCols := 3, wRows := 1, xCols := 1, xRows := 2, xRowLo := 7, xColLo := 0, wRowLo := 0, wColLo := 5,
      n := 12, nh := 1, wpad := 0, xpad := 0 } 0x3FF
    { Sched.idle .scenarioA with wColsIters := cols, xRowsIters := rows }

theorem test_bookkeeping :
    (let c := v26 0 0; (c.wColsIters, c.xRowsIters, c.zStrb, c.jobDone, c.finalRow)) =
      (1, 0, 0xFFFFFF, false, false) ∧
    (let c := v26 2 0; (c.wColsIters, c.xRowsIters, c.zStrb, c.jobDone, c.finalRow)) =
      (0, 1, 0x3FF, false, false) ∧
    (let c := v26 2 1; (c.wColsIters, c.xRowsIters, c.zStrb, c.jobDone, c.finalRow)) =
      (0, 2, 0x3FF, true, true) := by decide +kernel

/-- R132: the completion continuation. -/
theorem test_schedComplete :
    seen (exec .schedComplete finished)
      (fun t => (t.irq, t.sch.state, decide (t.cfg = JobConfig.unwritten), t.job, t.donePending, t.sch.jobDone)) =
      some (true, 0, true, none, false, true) := by decide +kernel

theorem test_fsmFinished : nextOf (exec .fsmFinished finished) = nextOf (exec .schedComplete finished) := by decide +kernel

/-- R118: one micro-step, both accumulators, one continuation. -/
theorem test_schedInvoke :
    seen (exec .schedInvoke { starting with sch := { starting.sch with latAcc := 9, latTotal := 10 } })
      (fun t => (t.sch.pre, t.sch.latAcc, t.sch.latTotal, t.mainPending, t.donePending)) =
      some (1, 4, 14, true, false) := by decide +kernel

/-- P4: a memory error inside an invocation: nothing is scheduled, the position stays, the cursor has moved. -/
theorem test_schedInvoke_fault :
    seen (exec .schedInvoke (failing computing))
      (fun t => (t.fault.map fatalCode, t.mainPending, t.donePending, t.sch.sub, t.ts.wCnt)) =
      some (some 3, false, false, 0, 1) := by decide +kernel

/-- The end of the run of `finished`: the step of the completion, then an `IRQCLR`. -/
def acknowledged : State := { complete finished with inbox := [.word (.hc 0x3000000000)] }

/-- R182: the completion ends the job, and still after the host cleared `irq`. -/
theorem test_jobEnded :
    jobEnded [complete finished, finished] ∧ jobEnded [(complete finished).setIrq false, acknowledged, finished] :=
  ⟨⟨by decide +kernel, rfl, Or.inl rfl, rfl, rfl⟩, ⟨by decide +kernel, rfl, Or.inr (by decide +kernel), rfl, rfl⟩⟩

/-- R168, R182: no job has ended after reset, nor after a reset that abandoned one. -/
theorem test_not_jobEnded :
    ¬ jobEnded [State.reset] ∧
    ¬ jobEnded [resetInput storing, { storing with inbox := [.reset] }, storing] :=
  ⟨not_jobEnded_start _, not_jobEnded_after_reset rfl⟩

/-- R80 through `SCHED.ENTRY` itself. -/
theorem test_schedEntry : nextOf (exec .schedEntry idle) = nextOf (exec (.trigger 0) idle) := by decide +kernel

/-- V27: the micro-steps of a job at the defaults: 68, and 324 with `P = 6`, `nh = 2`. -/
theorem test_jobSteps :
    jobSteps .scenarioA ⟨1, 1, 1, 1, 0, 0, 0, 0, 12, 1, 0, 0⟩ = 68 ∧
    jobSteps .scenarioA ⟨3, 2, 2, 2, 0, 0, 0, 0, 24, 2, 0, 0⟩ = 324 := by decide +kernel

/-- A stopped block has no step of its own; reset clears the fault (R26, R159). -/
theorem test_step_stopped :
    step stopped = .fault (.blockStopped (.badOffset 0x34)) ∧
    seen (step { stopped with inbox := [.reset] }) (fun t => (t.fault, t.mem, t.par)) =
      some (none, [], small) := ⟨rfl, by decide +kernel⟩

/-- Another master's write reaches memory (20_memory R44). -/
theorem test_step_memory :
    seen (step { idle with inbox := [.memory 0x10 (some 7)] }) (fun t => t.mem) =
      some [(0x10, (7 : BitVec 8))] := by decide +kernel

/-! ## Witnesses: for every statement with hypotheses, a state and operands that meet them together -/

/-- The configuration of the small block is valid (R79). -/
theorem smallConfig_valid : CfgValid small smallConfig := by
  refine ⟨fun r => ?_, by decide, by decide, fun str => ?_⟩
  · rcases r with ⟨str, f⟩ | _ | _ | _
    · cases str <;> cases f <;> rfl
    all_goals rfl
  · cases str <;> decide

theorem small_legal : LegalParams small := by decide

theorem idle_inv : BlockInv idle := by decide +kernel
theorem starting_inv : BlockInv starting := by decide +kernel
theorem computing_inv : BlockInv computing := by decide +kernel
theorem computingLast_inv : BlockInv computingLast := by decide +kernel
theorem storing_inv : BlockInv storing := by decide +kernel
theorem finished_inv : BlockInv finished := by decide +kernel
theorem stopped_inv : BlockInv stopped := by decide +kernel

theorem witness_EncodeOfDecodeIsIdentity : decode (.hc 0xB800000030) = .ok (.cfgwrZD3Stride 0x30) := by decide

/-- Both ends of the reserved ranges, in a state without and one with a fault. -/
theorem witness_ReservedOffsetsAreRefused :
    decode (.hc 0x3400000000) = .error (.badOffset (hcOffset 0x3400000000)) ∧
    decode (.hc 0xC000000000) = .error (.badOffset (hcOffset 0xC000000000)) ∧
    decode (.hc 0xFF00000000) = .error (.badOffset (hcOffset 0xFF00000000)) ∧
    ({ idle with inbox := [.word (.hc 0xC000000000)] } : State).inbox = .word (.hc 0xC000000000) :: [] ∧
    idle.fault = none ∧ stopped.fault ≠ none := by decide +kernel

theorem witness_DispatchFollowsTheCodes :
    starting.sch.state = 1 ∧ computing.sch.state = 2 ∧ storing.sch.state = 3 ∧
    (∀ c ∈ ([0, 4, 5, 7] : List (BitVec 3)), c ≠ 1 ∧ c ≠ 2 ∧ c ≠ 3) ∧
    ({ starting with sch := { starting.sch with state := 6 } } : State).mainPending = true ∧
    (BlockInv starting ∧ starting.fault = none ∧ starting.mainPending = true) ∧
    4 < (5 : BitVec 3).toNat := ⟨rfl, rfl, rfl, by decide, rfl, ⟨starting_inv, rfl, rfl⟩, by decide⟩

theorem witness_StepRunsTheDecodedWord :
    ({ idle with inbox := [.word (.hc 0x3000000000)] } : State).inbox = .word (.hc 0x3000000000) :: [] ∧
    decode (.hc 0x3000000000) = .ok (.irqclr 0) := by decide +kernel

theorem witness_StepWithoutInput :
    idle.inbox = [] ∧ stopped.fault = some (.badOffset 0x34) ∧ (finished.fault = none ∧ finished.donePending = true) ∧
    (starting.fault = none ∧ starting.donePending = false ∧ starting.mainPending = true) ∧
    (idle.fault = none ∧ idle.donePending = false ∧ idle.mainPending = false) := by decide +kernel

theorem witness_ResetInputResetsTheBlock :
    ({ stopped with inbox := [.reset] } : State).inbox = .reset :: [] := rfl

theorem witness_CfgwrHeadRegistersComplete : idle.fault = none ∧ idle.sch.state = stIdle := by decide +kernel
theorem witness_CfgwrXAndWBlocksComplete : idle.fault = none ∧ idle.sch.state = stIdle := by decide +kernel
theorem witness_CfgwrYAndZBlocksComplete : idle.fault = none ∧ idle.sch.state = stIdle := by decide +kernel

/-- The first and the last of the 39 offsets, in IDLE and busy. -/
theorem witness_CfgwrIsRuleR77 :
    cfgRegAt (hcOffset 0x0000000001) = some (.stream .x .base) ∧
    decode (.hc 0x0000000001) = .ok (.cfgwrXBase 1) ∧
    cfgRegAt (hcOffset 0xB800000001) = some (.stream .z .d3Stride) ∧
    decode (.hc 0xB800000001) = .ok (.cfgwrZD3Stride 1) ∧
    (idle.fault = none ∧ idle.sch.state = stIdle) ∧
    (finished.fault = none ∧ finished.sch.state ≠ stIdle) := by decide +kernel

/-- In IDLE, and, for `SCHED.ENTRY` presented by itself, in another state. -/
theorem witness_TriggerStartsTheJob :
    (idle.fault = none ∧ CfgValid idle.par idle.cfg ∧ idle.sch.state = stIdle) ∧
    (storing.fault = none ∧ CfgValid storing.par storing.cfg ∧ storing.sch.state ≠ stIdle) :=
  ⟨⟨rfl, smallConfig_valid, rfl⟩, rfl, smallConfig_valid, by decide⟩

/-- The small configuration with other packed words and another length, all 39 registers written. -/
def altered (xIter leftover yD1Len : Word) : JobConfig :=
  { smallConfig with
    xIter := some xIter, leftover := some leftover, y := { twoLines 0x3000 with d1Len := some yD1Len } }

theorem altered_written (a b c : Word) : CfgWritten (altered a b c) := by
  rintro (⟨str, f⟩ | _ | _ | _)
  · cases str <;> cases f <;> rfl
  all_goals rfl

/-- Busy; each check failing alone or with the later ones; valid. -/
theorem witness_TriggerIsRuleR78 :
    (starting.fault = none ∧ starting.sch.state ≠ stIdle) ∧
    (State.reset.fault = none ∧ State.reset.sch.state = stIdle ∧ ¬ CfgValid State.reset.par State.reset.cfg) ∧
    (¬ CfgValid small (altered 1 2 0) ∧ CfgWritten (altered 1 2 0) ∧ ¬ CfgCounts (altered 1 2 0)) ∧
    (¬ CfgValid small (altered 0x10001 2 0) ∧ CfgCounts (altered 0x10001 2 0) ∧
      ¬ CfgLeftovers small (altered 0x10001 2 0)) ∧
    (¬ CfgValid small (altered 0x10001 1 0) ∧ CfgCounts (altered 0x10001 1 0) ∧
      CfgLeftovers small (altered 0x10001 1 0) ∧ ¬ CfgLengths (altered 0x10001 1 0)) ∧
    (idle.fault = none ∧ idle.sch.state = stIdle ∧ CfgValid idle.par idle.cfg) :=
  ⟨by decide +kernel, ⟨rfl, rfl, fun h => absurd (h.1 .wIter) (by decide)⟩,
    ⟨fun h => absurd h.2.1 (by decide), altered_written _ _ _, by decide⟩,
    ⟨fun h => absurd h.2.2.1 (by decide), by decide, by decide⟩,
    ⟨fun h => absurd (h.2.2.2 .y) (by decide), by decide, by decide, fun h => absurd (h .y) (by decide)⟩,
    rfl, rfl, smallConfig_valid⟩

theorem witness_IrqclrLowersTheInterrupt : storing.fault = none := rfl

theorem witness_ContractionDimensionMatchesTheTiles : LegalParams small ∧ CfgValid small smallConfig :=
  ⟨small_legal, smallConfig_valid⟩

theorem witness_NoEffectWhileFaultIsSet : stopped.fault = some (.badOffset 0x34) := rfl

theorem witness_FaultIsClearedByResetAlone :
    stopped.fault = some (.badOffset 0x34) ∧
    (seen (step { stopped with inbox := [.reset] }) (fun t => t.fault) = some none) ∧
    (seen (step { stopped with inbox := [.word (.hc 0x3000000000)] }) (fun t => t.fault) =
      some (some (.badOffset 0x34))) := by decide +kernel

theorem witness_SgConfigureCompletes : idle.fault = none := rfl

theorem witness_SgBubbleAndIsdoneComplete :
    idle.fault = none ∧ (nextOf (exec (.sgConfigure .x 1 0 1 0 1 0 1 0 0) idle)).isSome = true := by
  decide +kernel

/-- The memory answers with success, latency 3. -/
theorem starting_answer : nextAnswer starting = (⟨.success, 3⟩, starting.setMemAnswers []) := rfl

/-- A slot of the stream's own kind, and a Z slot (log entry 33). -/
theorem witness_SgIterateReadsALine :
    starting.fault = none ∧ Stream.x ≠ .z ∧ (starting.sg.desc .x).doneCnt ≠ (starting.sg.desc .x).totLen ∧
    starting.ts.readSlot starting.par (.x 1 9) = some [none, none] ∧
    starting.ts.readSlot starting.par (.z 1) = some [some 0, some 0] ∧
    nextAnswer starting = (⟨.success, 3⟩, starting.setMemAnswers []) :=
  ⟨rfl, by decide, by decide +kernel, by decide +kernel, by decide +kernel, rfl⟩

theorem witness_SgIterateWritesALine :
    starting.fault = none ∧ (starting.sg.desc .z).doneCnt ≠ (starting.sg.desc .z).totLen ∧
    starting.ts.readSlot starting.par (.z 1) = some [some 0, some 0] ∧
    nextAnswer starting = (⟨.success, 3⟩, starting.setMemAnswers []) :=
  ⟨rfl, by decide +kernel, by decide +kernel, rfl⟩

/-- The X cursor at the last row of a chunk. -/
def lastXRow : State := { starting with ts := { starting.ts with xI := 1, xC := 8 } }

/-- For a stream that reads and for the one that writes, and for each stream step, an X cursor inside a chunk and
one at its last row. -/
theorem witness_BadMemoryStatusIsFatal :
    (starting.ts.w = some (List.replicate 2 [none, none]) ∧ starting.ts.wCnt < 2 ∧
      starting.sg.w.doneCnt ≠ starting.sg.w.totLen) ∧
    (starting.ts.x = some (List.replicate 10 none :: [List.replicate 10 none]) ∧ starting.ts.xI < 2 ∧
      starting.ts.xI + 1 ≠ starting.par.aw ∧ starting.sg.x.doneCnt ≠ starting.sg.x.totLen) ∧
    (nextAnswer (failing lastXRow) = (⟨.other 1, 3⟩, (failing lastXRow).setMemAnswers []) ∧
      lastXRow.ts.x = starting.ts.x ∧ lastXRow.ts.xI < 2 ∧ lastXRow.ts.xI + 1 = lastXRow.par.aw) ∧
    (starting.ts.yOffs + starting.ts.yCnt < starting.ts.y.length) ∧
    (starting.ts.z[starting.ts.zCnt]? = some [some 0, some 0]) ∧
    (failing starting).fault = none ∧
    ((failing starting).sg.desc .y).doneCnt ≠ ((failing starting).sg.desc .y).totLen ∧
    (failing starting).ts.readSlot small (.y 3) = some [some 0, some 0] ∧
    ((failing starting).sg.desc .z).doneCnt ≠ ((failing starting).sg.desc .z).totLen ∧
    (failing starting).ts.readSlot small (.z 0) = some [some 0, some 0] ∧
    nextAnswer (failing starting) = (⟨.other 1, 3⟩, (failing starting).setMemAnswers []) :=
  ⟨by decide +kernel, by decide +kernel, ⟨rfl, by decide +kernel⟩, by decide +kernel, by decide +kernel, rfl,
    by decide +kernel, by decide +kernel, by decide +kernel, by decide +kernel, rfl⟩

/-- The first and the last transaction of V13's stream. -/
theorem witness_StreamAddressClosedForm :
    ((2 : Word) ≠ 0 ∧ (3 : Word) ≠ 0 ∧ (1 : Word) ≠ 0) ∧
    (0 = ([] : List Nat).length ∧ 0 < (6 : Word).toNat) ∧
    (5 = [1, 0, 7, 0, 2].length ∧ 5 < (6 : Word).toNat) := by decide

theorem witness_TransactionCountsAndRestarts :
    ({ v13 with doneCnt := 5 } : StreamDesc).doneCnt + 1 = ({ v13 with doneCnt := 5 } : StreamDesc).totLen := by
  decide +kernel

theorem witness_StepKeepsStreamInvariants :
    StreamsInv starting ∧ (nextOf (step starting)).isSome = true := by decide +kernel

/-- A line across the top of the address space, a strobe bit that is 1 and one that is 0. -/
theorem witness_StrobedWriteTouchesEnabledBytesOnly :
    Memory.wf [(0, (0xAA : BitVec 8))] ∧ [some (1 : Byte), some 2, none].length ≤ 2 ^ 32 ∧
    Nat.testBit 5 0 = true ∧ Nat.testBit 5 2 = true ∧ Nat.testBit 5 1 = false ∧
    (∀ q < 3, Nat.testBit 5 q = true → 7 ≠ ((0xFFFFFFFF : Word).toNat + q) % 2 ^ 32) := by decide +kernel

theorem witness_StepKeepsMemoryCanonical :
    Memory.wf (withLine starting 0x2000).mem ∧ (nextOf (step (withLine starting 0x2000))).isSome = true := by
  decide +kernel

theorem witness_OnlyZStepsWriteMemory :
    (nextOf (exec .stepW starting)).isSome = true ∧ (nextOf (exec .schedInvoke computing)).isSome = true := by
  decide +kernel

theorem witness_TsAllocAndFreeComplete : idle.fault = none := rfl

/-- An X cursor inside a chunk, and one at its last row. -/
theorem witness_NextSlotsComplete :
    (starting.fault = none ∧
      starting.ts.x = some (List.replicate 10 none :: [List.replicate 10 none]) ∧
      (List.replicate 10 (none : TileElem)).length ≠ 0 ∧ starting.ts.xI + 1 ≠ starting.par.aw) ∧
    (lastXRow.fault = none ∧
      lastXRow.ts.x = some (List.replicate 10 none :: [List.replicate 10 none]) ∧
      lastXRow.ts.xI + 1 = lastXRow.par.aw) := by decide +kernel

theorem witness_NextWWalksTheRing :
    starting.fault = none ∧ starting.ts.w = some (List.replicate 2 [none, none]) ∧
    (List.replicate 2 ([none, none] : List TileElem)).length ≠ 0 ∧
    (1 : Word).toNat + (if (1 : BitVec 8).toNat = 0 then 0 else idle.par.aw - (1 : BitVec 8).toNat) ≠ 0 := by
  decide +kernel

theorem witness_NextXFillsChunksInOrder :
    0 < idle.par.aw ∧
    11 = (2 : Word).toNat + (if (1 : BitVec 8).toNat = 0 then 0 else idle.par.aw - (1 : BitVec 8).toNat) +
      2 * idle.par.h * (idle.par.pd + 1) ∧ 11 ≠ 0 := by decide +kernel

theorem witness_ComputezCompletes :
    v20.fault = none ∧ v20.job.isSome = true ∧ v20.ts.x = some v20x ∧ v20.ts.w = some v20w := by
  decide +kernel

/-- By an X element without value, and by a Y element without value. -/
theorem witness_NoValuePropagatesToZ :
    (computingLast.fault = none ∧ computingLast.job.isSome = true ∧ computingLast.ts.x.isSome = true ∧
      computingLast.ts.w.isSome = true ∧ (nextOf (exec .tsComputez computingLast)).isSome = true) ∧
    (TileBuf.elem [List.replicate 10 none, List.replicate 10 none] 1 ((0 + 1) % 10) = none) ∧
    (({ v20 with ts := { v20.ts with y := [[none, some 0], [some 0, some 0]] } } : State).ts.y.elem (0 + 0) 0 = none) := by
  decide +kernel

/-- One slot of each kind, an X slot that runs over the ring's end. -/
theorem witness_SlotReadsBackTheLineWritten :
    [some (1 : Elem), none].length = small.aw ∧
    (starting.ts.readSlot small (.w 1)).isSome = true ∧ (starting.ts.readSlot small (.x 1 9)).isSome = true ∧
    (starting.ts.readSlot small (.y 3)).isSome = true ∧ (starting.ts.readSlot small (.z 1)).isSome = true ∧
    (∀ b ∈ starting.ts.x, ∀ r ∈ b, small.aw ≤ r.length ∧ 0 < r.length) := by decide +kernel

/-- The largest pattern of 16 bits, and an element without value. -/
theorem witness_LineAndBytesAreInverse :
    ((2 : Nat) = 1 ∨ (2 : Nat) = 2 ∨ (2 : Nat) = 4) ∧
    (∀ e ∈ [some (0xFFFF : Elem), none], ∀ v ∈ e, v.toNat < 2 ^ (8 * 2)) := by
  refine ⟨by decide, ?_⟩
  intro e he v hv
  simp only [List.mem_cons, List.not_mem_nil, or_false] at he
  rcases he with rfl | rfl
  · cases hv; decide
  · cases hv

theorem witness_FusedStepStaysInTheFormat : small.eb = 1 ∨ small.eb = 2 ∨ small.eb = 4 := by decide

/-- Each legal width and two illegal ones; the smallest and the largest count. -/
theorem witness_MkstrobeCompletes :
    idle.fault = none ∧ (∀ w ∈ [1, 2, 4], w = 1 ∨ w = 2 ∨ w = 4) ∧
    (∀ w ∈ [0, 3], w ≠ 1 ∧ w ≠ 2 ∧ w ≠ 4) ∧ 0 < idle.par.aw ∧ 1 < idle.par.aw ∧ 2 = idle.par.eb := by
  decide +kernel

theorem witness_StrobeHasContiguousBits :
    (small.eb = 1 ∨ small.eb = 2 ∨ small.eb = 4) ∧ 0 < small.aw ∧ 1 < small.aw ∧
    Memory.wf [(0, (0xAA : BitVec 8))] ∧ [some (1 : Elem), none].length = small.aw ∧
    small.aw * small.eb ≤ 2 ^ 32 ∧ (∀ q < 1 * small.eb, 7 ≠ ((0 : Word).toNat + q) % 2 ^ 32) := by decide +kernel

/-- All four streams done. -/
theorem witness_BubbleStepsComplete :
    idle.fault = none ∧ idle.sg.w.doneCnt = idle.sg.w.totLen ∧ idle.sg.x.doneCnt = idle.sg.x.totLen ∧
    idle.sg.y.doneCnt = idle.sg.y.totLen ∧ idle.sg.z.doneCnt = idle.sg.z.totLen := by decide +kernel

/-- Each kind of step, an X cursor inside a chunk and one at its last row. -/
theorem witness_LoadStepsComplete :
    (lastXRow.fault = none ∧ nextAnswer lastXRow = (⟨.success, 3⟩, lastXRow.setMemAnswers []) ∧
      lastXRow.ts.x = some (List.replicate 10 none :: [List.replicate 10 none]) ∧ lastXRow.ts.xI < 2 ∧
      lastXRow.ts.xI + 1 = lastXRow.par.aw ∧ lastXRow.sg.x.doneCnt ≠ lastXRow.sg.x.totLen) ∧
    starting.fault = none ∧ nextAnswer starting = (⟨.success, 3⟩, starting.setMemAnswers []) ∧
    (starting.ts.w = some (List.replicate 2 [none, none]) ∧ starting.ts.wCnt < 2 ∧
      starting.sg.w.doneCnt ≠ starting.sg.w.totLen) ∧
    (starting.ts.x = some (List.replicate 10 none :: [List.replicate 10 none]) ∧ starting.ts.xI < 2 ∧
      starting.sg.x.doneCnt ≠ starting.sg.x.totLen) ∧
    (starting.ts.yOffs + starting.ts.yCnt < starting.ts.y.length ∧
      starting.sg.y.doneCnt ≠ starting.sg.y.totLen) :=
  ⟨⟨rfl, rfl, by decide +kernel⟩, rfl, rfl, by decide +kernel, by decide +kernel, by decide +kernel⟩

theorem witness_StoreStepCompletes :
    storing.fault = none ∧ nextAnswer storing = (⟨.success, 3⟩, storing.setMemAnswers []) ∧
    storing.sg.z.doneCnt ≠ storing.sg.z.totLen ∧ storing.ts.z[storing.ts.zCnt]? = some [some 0, some 0] :=
  ⟨rfl, rfl, by decide +kernel, by decide +kernel⟩

theorem witness_CompletionReturnsToIdle : finished.fault = none ∧ finished.donePending = true := ⟨rfl, rfl⟩

/-- Every stream is done. -/
def allDone (s : State) : State :=
  { s with sg := ⟨configured 0 0 1 0 1 0 1 0 0, configured 0 0 1 0 1 0 1 0 0, configured 0 0 1 0 1 0 1 0 0,
                  configured 0 0 1 0 1 0 1 0 0⟩ }

/-- The first preload step and the last, and, before a failing answer, a bubble of a stream that is done. -/
theorem witness_StartingMicroStepCompletes :
    (BlockInv starting ∧ starting.fault = none ∧ starting.sch.state = stStarting ∧ Accesses starting ∧
      AccessSucceeds starting) ∧
    (BlockInv { starting with sch := { starting.sch with pre := 5 } } ∧ 5 + 1 = 3 * starting.par.aw) ∧
    (BlockInv (allDone (failing starting)) ∧ ¬ Accesses (allDone (failing starting)) ∧
      AccessSucceeds (allDone (failing starting)) ∧
      (nextAnswer (allDone (failing starting))).1.status = .other 1) := by decide +kernel

/-- A micro-step with an access, and, before a failing answer, the last one of the last hypercycle, a bubble. -/
theorem witness_ComputingMicroStepCompletes :
    (BlockInv computing ∧ computing.fault = none ∧ computing.sch.state = stComputing ∧
      computing.job.isSome = true ∧ Accesses computing ∧ AccessSucceeds computing) ∧
    (BlockInv (failing computingLast) ∧ turn (failing computingLast) = none ∧
      AccessSucceeds (failing computingLast) ∧ computingLast.sch.sub + 1 = small.pd + 1 ∧
      computingLast.sch.cyc + 1 = small.h ∧
      ∀ j ∈ computingLast.job, computingLast.sch.hyper.toNat + 1 = j.nh) := by decide +kernel

/-- A Z step with an access, and, before a failing answer, a bubble of the Z stream that is done. -/
theorem witness_StoringMicroStepCompletes :
    (BlockInv storing ∧ storing.fault = none ∧ storing.sch.state = stStoring ∧ turn storing = some .z ∧
      Accesses storing ∧ AccessSucceeds storing) ∧
    (BlockInv (allDone (failing storing)) ∧ ¬ Accesses (allDone (failing storing)) ∧
      AccessSucceeds (allDone (failing storing))) := by decide +kernel

/-- A pass that is the last W-column tile, and one that is not. -/
theorem witness_PassBookkeeping :
    (∀ j ∈ storing.job, j.wColLo.toNat < storing.par.aw ∧ storing.sch.wColsIters + 1 = j.wCols) ∧
    storing.job.isSome = true ∧ (storing.par.eb = 1 ∨ storing.par.eb = 2 ∨ storing.par.eb = 4) ∧
    (∀ j ∈ storing.job, ({ storing.sch with wColsIters := 4 } : Sched).wColsIters + 1 ≠ j.wCols) := by
  decide +kernel

/-- With an access that succeeds; a bubble before a failing answer; and a failing access of each stream (X after the
first `AW` preload steps). -/
theorem witness_InvocationCompletes :
    (BlockInv computing ∧ computing.fault = none ∧ computing.mainPending = true ∧ Accesses computing ∧
      AccessSucceeds computing) ∧
    (BlockInv (failing computingLast) ∧ AccessSucceeds (failing computingLast)) ∧
    (nextAnswer (failing storing) = (⟨.other 1, 3⟩, (failing storing).setMemAnswers [])) ∧
    (BlockInv (failing computing) ∧ turn (failing computing) = some .w ∧ Accesses (failing computing)) ∧
    (BlockInv (failing { starting with sch := { starting.sch with pre := 2 } }) ∧
      turn (failing { starting with sch := { starting.sch with pre := 2 } }) = some .x ∧
      Accesses (failing { starting with sch := { starting.sch with pre := 2 } })) ∧
    (BlockInv (failing starting) ∧ turn (failing starting) = some .y ∧ Accesses (failing starting)) ∧
    (BlockInv (failing storing) ∧ turn (failing storing) = some .z ∧ Accesses (failing storing)) :=
  ⟨by decide +kernel, by decide +kernel, rfl, by decide +kernel, by decide +kernel, by decide +kernel,
    by decide +kernel⟩

/-- `TRIGGER` at the boundary. -/
theorem witness_StateGraphHasNoOtherEdge :
    BlockInv { idle with inbox := [.word (.hc 0x2C00000000)] } ∧ idle.fault = none ∧
    ({ idle with inbox := [.word (.hc 0x2C00000000)] } : State).boundaryOnly ∧
    seen (step { idle with inbox := [.word (.hc 0x2C00000000)] }) (fun t => t.sch.state) = some 1 := by
  decide +kernel

/-- The rise and the fall, and reset. -/
theorem witness_InterruptRisesAndFallsByRule :
    (seen (exec .schedComplete finished) (fun t => decide (t.irq ≠ finished.irq)) = some true) ∧
    (seen (exec (.irqclr 0) { idle with irq := true }) (fun t => t.irq) = some false) ∧
    ({ idle with inbox := [.reset] } : State).inbox = .reset :: [] := by decide +kernel

theorem witness_InvariantsHoldAtReset : LegalParams small ∧ LegalParams .scenarioA := by decide

theorem witness_BoundaryStepKeepsBlockInvariant :
    BlockInv storing ∧ storing.boundaryOnly ∧ (nextOf (step storing)).isSome = true := by decide +kernel

theorem witness_RuleR30FollowsFromTheInvariant : BlockInv finished ∧ finished.fault = none :=
  ⟨finished_inv, rfl⟩

theorem witness_BoundaryStepAlwaysAnswers :
    (BlockInv finished ∧ finished.boundaryOnly) ∧ (BlockInv stopped ∧ stopped.boundaryOnly) := by
  decide +kernel

/-- A step that does record a fault. -/
theorem witness_InternalFatalsAreUnreachable :
    BlockInv (failing computing) ∧ (failing computing).boundaryOnly ∧ (failing computing).fault = none ∧
    seen (step (failing computing)) (fun t => t.fault) = some (some (.memStatus .w 0x2000 (.other 1))) := by
  decide +kernel

theorem witness_JobLengthIsRuleR140 :
    (BlockInv starting ∧ starting.fault = none ∧ starting.job.isSome = true ∧
      starting.sch.state = stStarting ∧ starting.sch.pre = 0) ∧
    starting.mainPending = true ∧ seen (exec .schedInvoke starting) (fun t => t.fault) = some none := by
  decide +kernel

end Sys2Proof.Tests
end

/-! # The kernel of TS.COMPUTEZ and elements without value (42_tile_store R104, R108) -/

namespace Sys2Proof.Machine

/-! ## TS.COMPUTEZ, executed -/

/-- `TS.COMPUTEZ` by itself, where the job copy, W and X exist (R104). -/
theorem exec_tsComputez {s : State} {job : Job} {x w : TileBuf} (hf : s.fault = none)
    (hj : s.job = some job) (hx : s.ts.x = some x) (hw : s.ts.w = some w) :
    exec .tsComputez s = .next (s.setTs { s.ts with
      z := kernelTile s.par s.ts x w job.n.toNat
      xOffs := (s.ts.xOffs + (job.n.toNat + job.xpad)) % s.ts.xCap
      yOffs := if s.ts.yOffs = 0 then s.par.aw else 0 }) := by
  simp [exec, execTsComputez, unlessStopped_of_none _ _ hf, computeZ, hj, hx, hw]

/-- An element of the Z tile is the accumulator after all `n` steps. -/
theorem kernelTile_elem (p : Params) (ts : TileStore) (x w : TileBuf) (n : Nat) {i c : Nat}
    (hi : i < p.aw) (hc : c < p.aw) :
    (kernelTile p ts x w n).elem i c = kernelAcc p ts x w i c n := by
  simp [kernelTile, TileBuf.elem, hi, hc]

/-! ## "No value" propagates -/

/-- A fused step has a value exactly when its three operands have one (R108). -/
theorem fmaElem_eq_none_iff (p : Params) (a b c : TileElem) :
    fmaElem p a b c = none ↔ a = none ∨ b = none ∨ c = none := by
  match a, b, c with
  | some _, some _, some _ => simp [fmaElem]
  | some _, some _, none => simp [fmaElem]
  | some _, none, _ => simp [fmaElem]
  | none, _, _ => simp [fmaElem]

/-- The accumulator is without value exactly when the Y element, or an X or W element of the steps taken so
far, is. -/
theorem kernelAcc_eq_none_iff (p : Params) (ts : TileStore) (x w : TileBuf) (i c n : Nat) :
    kernelAcc p ts x w i c n = none ↔
      ts.y.elem (i + ts.yOffs) c = none ∨
        ∃ k, k < n ∧ (x.elem i ((ts.xOffs + k) % ts.xCap) = none ∨ w.elem k c = none) := by
  induction n with
  | zero => simp [kernelAcc]
  | succ n ih =>
    rw [kernelAcc, fmaElem_eq_none_iff, ih, Nat.exists_lt_succ_right, ← or_assoc, or_comm, or_assoc]

/-- Settles O38: the Z element is the accumulator after `n` steps, and each step keeps "no value". -/
theorem noValuePropagatesToZ : Obligations.NoValuePropagatesToZ := by
  unfold Obligations.NoValuePropagatesToZ
  intro s t j x w i c hf hj hx hw hexec hi hc hnone
  rw [exec_tsComputez hf hj hx hw] at hexec
  obtain rfl := Host.Outcome.next.inj hexec
  calc (kernelTile s.par s.ts x w j.n.toNat).elem i c
      _ = kernelAcc s.par s.ts x w i c j.n.toNat := kernelTile_elem _ _ _ _ _ hi hc
      _ = none := (kernelAcc_eq_none_iff ..).2 hnone

end Sys2Proof.Machine

/-! # How an operation ends -/

namespace Sys2Proof.Machine

/-- An operation ends well: `Q` of its value and state where it succeeds, `F` of the state a fatal condition
leaves, and `R` where it is refused (`True`: refusals are allowed, `False`: there is none). -/
def Res.Ends {α : Type} (Q : α → State → Prop) (F : State → Prop) (R : Prop) : Res α → Prop
  | .ok a t => Q a t
  | .fatal t => F t
  | .refused _ => R

/-- `P` holds of the state after a step, and `R` if the step leaves none. -/
def StepEnds (P : State → Prop) (R : Prop) : Host.Outcome State Fault Refusal → Prop
  | .next t => P t
  | .fault _ => R
  | .refused _ => R

@[simp] theorem Res.ends_ok {α : Type} (Q : α → State → Prop) (F : State → Prop) (R : Prop) (a : α)
    (t : State) : (Res.ok a t).Ends Q F R ↔ Q a t := Iff.rfl

@[simp] theorem Res.ends_fatal {α : Type} (Q : α → State → Prop) (F : State → Prop) (R : Prop) (t : State) :
    (Res.fatal t : Res α).Ends Q F R ↔ F t := Iff.rfl

@[simp] theorem Res.ends_refused {α : Type} (Q : α → State → Prop) (F : State → Prop) (R : Prop)
    (why : Refusal) : (Res.refused why : Res α).Ends Q F R ↔ R := Iff.rfl

@[simp] theorem stepEnds_next (P : State → Prop) (R : Prop) (t : State) : StepEnds P R (.next t) ↔ P t :=
  Iff.rfl

/-- What `StepEnds` asks of the action a step is about to take. -/
def ActionEnds (P : State → Prop) (R : Prop) : Action → Prop
  | .run i s => StepEnds P R (exec i s)
  | .become s => P s
  | .stopped _ => R
  | .refuse _ => R

theorem stepEnds_step {P : State → Prop} {R : Prop} {s : State} (h : ActionEnds P R (nextAction s)) :
    StepEnds P R (step s) := by
  unfold step
  split <;> rename_i ha <;> rw [ha] at h <;> exact h

/-- What is asked of a step that answers holds of the state it answers with. -/
theorem StepEnds.of_next {P : State → Prop} {R : Prop} {o : Host.Outcome State Fault Refusal} {t : State}
    (h : StepEnds P R o) (ho : o = .next t) : P t := by subst ho; exact h

/-- A step that may not end otherwise answers. -/
theorem StepEnds.exists_next {P : State → Prop} {o : Host.Outcome State Fault Refusal}
    (h : StepEnds P False o) : ∃ t, o = .next t ∧ P t := by
  cases o with
  | next t => exact ⟨t, rfl, h⟩
  | fault f => exact h.elim
  | refused why => exact h.elim

section
variable {α β : Type} {Q Q' : α → State → Prop} {Q₂ : β → State → Prop} {F F' P : State → Prop} {R : Prop}

theorem Res.ends_iff {r : Res α} :
    r.Ends Q F R ↔ (∀ a t, r = .ok a t → Q a t) ∧ (∀ t, r = .fatal t → F t) ∧
      ∀ why, r = .refused why → R := by
  cases r <;> simp

/-- The rest of an operation starts where the part before it succeeded. -/
theorem Res.Ends.bind {r : Res α} {f : α → State → Res β} (h : r.Ends Q F R)
    (hf : ∀ a t, Q a t → (f a t).Ends Q₂ F R) : (r.bind f).Ends Q₂ F R := by
  cases r with
  | ok a t => exact hf a t h
  | fatal t => exact h
  | refused why => exact h

/-- A weaker claim, given how the operation succeeded. -/
theorem Res.Ends.imp {r : Res α} (h : r.Ends Q F R) (hQ : ∀ a t, r = .ok a t → Q a t → Q' a t)
    (hF : ∀ t, F t → F' t) : r.Ends Q' F' R := by
  cases r with
  | ok a t => exact hQ a t rfl h
  | fatal t => exact hF t h
  | refused why => exact h

theorem stepEnds_unlessStopped {s : State} {o : Host.Outcome State Fault Refusal} (hs : P s)
    (h : s.fault = none → StepEnds P R o) : StepEnds P R (unlessStopped s o) := by
  cases hf : s.fault with
  | none => rw [unlessStopped_of_none s o hf]; exact h hf
  | some f => rw [unlessStopped_of_some s o f hf]; exact hs

theorem stepEnds_finish {r : Res α} {f : α → Result}
    (h : r.Ends (fun a t => P (t.setResult (f a))) P R) : StepEnds P R (finish r f) := by
  cases r <;> exact h

theorem stepEnds_finishUnit {r : Res Unit} (h : r.Ends (fun _ => P) P R) : StepEnds P R (finishUnit r) := by
  cases r <;> exact h

end

/-! ## Where a stream step raises -/

/-- A fatal condition is recorded, and the control state and the stream descriptors are as they were. -/
structure Raised (s t : State) : Prop where
  fault : t.fault.isSome = true
  control : KeepsControl s t
  sg : t.sg = s.sg

theorem raised_raiseFatal (f : Fatal) (s : State) : Raised s (raiseFatal f s) := by
  obtain ⟨v, hv⟩ := raiseFatal_eq f s
  have hf := raiseFatal_fault_isSome f s
  rw [hv] at hf ⊢
  exact ⟨hf, by simp [KeepsControl], rfl⟩

/-- A raise after a change that left the control state and the descriptors alone. -/
theorem Raised.of_keeps {s s1 t : State} (h : Raised s1 t) (hc : KeepsControl s s1) (hg : s1.sg = s.sg) :
    Raised s t := by
  obtain ⟨hf, hk, hsg⟩ := h
  exact ⟨hf, by simp_all [KeepsControl], hsg.trans hg⟩

theorem readTransaction_fatal {str : Stream} {slot : Slot} {s t : State}
    (h : readTransaction str slot s = .fatal t) : Raised s t := by
  unfold readTransaction at h
  split at h
  · cases h
  · next c l s1 hn =>
    cases h
    obtain ⟨hk, hg, -⟩ := nextAnswer_frame hn
    exact (raised_raiseFatal _ s1).of_keeps hk hg

theorem writeTransaction_fatal {str : Stream} {line : List TileElem} {strobe : Nat} {s t : State}
    (h : writeTransaction str line strobe s = .fatal t) : Raised s t := by
  unfold writeTransaction at h
  split at h
  · cases h
  · next c l s1 hn =>
    cases h
    obtain ⟨hk, hg, -⟩ := nextAnswer_frame hn
    exact (raised_raiseFatal _ _).of_keeps (s1 := s1.setMem _) hk hg

/-- Where `SG.ITERATE` raises (R88): in its transaction. -/
theorem iterate_fatal {str : Stream} {slot : Option Slot} {strobe : Nat} {s t : State}
    (h : iterate str slot strobe s = .fatal t) : Raised s t := by
  unfold iterate at h
  split at h
  · cases h
  split at h
  · cases h
  split at h
  · cases h
  cases str with
  | z => exact writeTransaction_fatal h
  | x => exact readTransaction_fatal h
  | w => exact readTransaction_fatal h
  | y => exact readTransaction_fatal h

end Sys2Proof.Machine

/-! # The invariants of the stream descriptors (10_state R18) -/

namespace Sys2Proof.Machine

/-! ## One dimension, one descriptor -/

theorem dimInv_zero (len stride : Word) : DimInv len stride 0 0 :=
  ⟨fun h => by bv_omega, by simp⟩

theorem DimInv.succ {len stride pos cnt : Word} (h : DimInv len stride pos cnt) (hc : cnt + 1 ≠ len) :
    DimInv len stride (pos + stride) (cnt + 1) := by
  obtain ⟨hlt, rfl⟩ := h
  exact ⟨fun hl => by have := hlt hl; bv_omega, by ring⟩

/-- The counters and positions of the carry chain (R89). -/
theorem StreamInv.advance {d : StreamDesc} (h : StreamInv d) : StreamInv d.advance := by
  obtain ⟨h0, h1, h2, hd⟩ := h
  unfold StreamDesc.advance
  split
  · unfold StreamDesc.advance1
    split
    · unfold StreamDesc.advance2
      split
      · exact ⟨dimInv_zero _ _, dimInv_zero _ _, dimInv_zero _ _, hd⟩
      · next hc => exact ⟨dimInv_zero _ _, dimInv_zero _ _, h2.succ hc, hd⟩
    · next hc => exact ⟨dimInv_zero _ _, h1.succ hc, h2, hd⟩
  · next hc => exact ⟨h0.succ hc, h1, h2, hd⟩

/-- The carry chain counts no transaction and keeps the total. -/
theorem advance_doneCnt_totLen (d : StreamDesc) :
    d.advance.doneCnt = d.doneCnt ∧ d.advance.totLen = d.totLen := by
  unfold StreamDesc.advance StreamDesc.advance1 StreamDesc.advance2
  split
  · split
    · split <;> exact ⟨rfl, rfl⟩
    · exact ⟨rfl, rfl⟩
  · exact ⟨rfl, rfl⟩

/-- A transaction on a stream that is not done (R88, R90). -/
theorem StreamInv.afterStep {d : StreamDesc} (h : StreamInv d) (hd : d.doneCnt ≠ d.totLen) (l : Nat) :
    StreamInv (d.afterStep l) := by
  obtain ⟨h0, h1, h2, -⟩ := h.advance
  obtain ⟨-, -, -, hcount⟩ := h
  have hle : d.advance.doneCnt + 1 ≤ d.advance.totLen := by
    obtain ⟨e1, e2⟩ := advance_doneCnt_totLen d
    rw [e1, e2]
    bv_omega
  unfold StreamDesc.afterStep
  simp only [← (advance_doneCnt_totLen d).1]
  split
  · exact ⟨dimInv_zero _ _, dimInv_zero _ _, dimInv_zero _ _, hle⟩
  · exact ⟨h0, h1, h2, hle⟩

/-- A descriptor that counts nothing yet (R86). -/
theorem streamInv_configured (base totLen d0Len d0Stride d1Len d1Stride d2Len d2Stride d3Stride : Word) :
    StreamInv (configured base totLen d0Len d0Stride d1Len d1Stride d2Len d2Stride d3Stride) :=
  ⟨dimInv_zero _ _, dimInv_zero _ _, dimInv_zero _ _, Nat.zero_le totLen.toNat⟩

/-! ## The four descriptors -/

theorem streamsInv_iff (s : State) : StreamsInv s ↔ ∀ str, StreamInv (s.sg.desc str) :=
  ⟨fun ⟨hx, hw, hy, hz⟩ str => by
    cases str with
    | x => exact hx
    | w => exact hw
    | y => exact hy
    | z => exact hz,
   fun h => ⟨h .x, h .w, h .y, h .z⟩⟩

theorem StreamsInv.of_sg {s t : State} (h : StreamsInv s) (hg : t.sg = s.sg) : StreamsInv t := by
  unfold StreamsInv
  rwa [hg]

theorem StreamsInv.setDesc {s : State} {str : Stream} {d : StreamDesc} (h : StreamsInv s)
    (hd : StreamInv d) : StreamsInv (s.setDesc str d) := by
  rw [streamsInv_iff] at h ⊢
  intro str'
  by_cases he : str' = str
  · subst he; simpa using hd
  · rw [State.setDesc_eq, State.setSg_sg, Streams.desc_setDesc_other _ _ _ _ he]; exact h str'

/-- The descriptors' invariants hold wherever the operation ends; it may be refused. -/
abbrev KeepsStreams {α : Type} (r : Res α) : Prop := r.Ends (fun _ => StreamsInv) StreamsInv True

/-- Where an operation raised, the descriptors are as they were. -/
theorem Raised.streamsInv {s t : State} (h : Raised s t) (hs : StreamsInv s) : StreamsInv t := hs.of_sg h.sg

/-! ## The stream steps -/

theorem iterate_keepsStreams (str : Stream) (slot : Option Slot) (strobe : Nat) {s : State}
    (h : StreamsInv s) : KeepsStreams (iterate str slot strobe s) := by
  have transaction : isDone str s = false → ∀ l (s1 : State), s1.sg = s.sg →
      StreamsInv (s1.setSg (s1.sg.setDesc str ((s1.sg.desc str).afterStep l))) := by
    intro hd l s1 hg
    have hne : (s1.sg.desc str).doneCnt ≠ (s1.sg.desc str).totLen := by simpa [isDone, hg] using hd
    have h1 : StreamsInv s1 := h.of_sg hg
    exact h1.setDesc (((streamsInv_iff s1).1 h1 str).afterStep hne l)
  refine Res.ends_iff.2 ⟨fun lat t ht => ?_, fun t ht => (iterate_fatal ht).streamsInv h,
    fun _ _ => trivial⟩
  rcases iterate_ok ht with ⟨-, -, rfl⟩ | ⟨sl, line, -, hd, -, ⟨-, hw⟩ | ⟨-, hr⟩⟩
  · exact h.setDesc ((streamsInv_iff s).1 h str)
  · obtain ⟨l, s1, hn, -, rfl⟩ := writeTransaction_ok hw
    exact transaction hd l s1 (nextAnswer_frame hn).2.1
  · obtain ⟨l, s1, hn, -, rfl⟩ := readTransaction_ok hr
    exact transaction hd l s1 (nextAnswer_frame hn).2.1

theorem NextSlotFrame.keepsStreams {next : State → Res Slot} (hf : NextSlotFrame next)
    (hn : ∀ s t, next s ≠ .fatal t) {s : State} (h : StreamsInv s) : KeepsStreams (next s) := by
  refine Res.ends_iff.2 ⟨fun sl t ht => ?_, fun t ht => absurd ht (hn s t), fun _ _ => trivial⟩
  obtain ⟨ts, rfl⟩ := hf ht
  exact h

theorem nextW_ne_fatal (s t : State) : nextW s ≠ .fatal t := by unfold nextW; split <;> simp
theorem nextX_ne_fatal (s t : State) : nextX s ≠ .fatal t := by unfold nextX; split <;> simp
theorem nextY_ne_fatal (s t : State) : nextY s ≠ .fatal t := by simp [nextY]
theorem nextZ_ne_fatal (s t : State) : nextZ s ≠ .fatal t := by simp [nextZ]

theorem gated_keepsStreams {next : State → Res Slot} (hf : NextSlotFrame next)
    (hn : ∀ s t, next s ≠ .fatal t) (str : Stream) (strobe : Nat) {s : State} (h : StreamsInv s) :
    KeepsStreams (gated str strobe next s) := by
  unfold gated
  split
  · exact iterate_keepsStreams str none strobe h
  · exact (hf.keepsStreams hn h).bind fun sl t ht => iterate_keepsStreams str (some sl) strobe ht

theorem doStep_keepsStreams (sel : BitVec 3) {s : State} (h : StreamsInv s) :
    KeepsStreams (doStep sel s) := by
  unfold doStep
  split
  · exact h
  split
  · exact gated_keepsStreams nextW_frame nextW_ne_fatal _ _ h
  split
  · exact gated_keepsStreams nextX_frame nextX_ne_fatal _ _ h
  split
  · exact gated_keepsStreams nextY_frame nextY_ne_fatal _ _ h
  split
  · exact gated_keepsStreams nextZ_frame nextZ_ne_fatal _ _ h
  · exact (raised_raiseFatal _ s).streamsInv h

/-! ## The scheduler's operations -/

theorem computeZ_keepsStreams {s : State} (h : StreamsInv s) : KeepsStreams (computeZ s) := by
  unfold computeZ
  split
  · exact h
  · trivial
  · trivial

theorem storeBookkeeping_keepsStreams {s : State} (h : StreamsInv s) :
    KeepsStreams (storeBookkeeping s) := by
  unfold storeBookkeeping
  split
  · trivial
  split
  · trivial
  · exact h

theorem endComputing_keepsStreams {s : State} (h : StreamsInv s) : KeepsStreams (endComputing s) := by
  unfold endComputing
  split
  · trivial
  split
  · exact (computeZ_keepsStreams h).bind fun _ _ h1 =>
      (storeBookkeeping_keepsStreams h1).bind fun _ _ h2 => h2
  · exact h

theorem endStoring_keepsStreams {s : State} (h : StreamsInv s) : KeepsStreams (endStoring s) := by
  unfold endStoring
  split <;> exact h

theorem microPhase_keepsStreams (sel : BitVec 3) {e : State → Res Unit}
    (he : ∀ {s}, StreamsInv s → KeepsStreams (e s)) {s : State} (h : StreamsInv s) :
    KeepsStreams (microPhase sel e s) := by
  refine (doStep_keepsStreams sel h).bind fun lat s1 h1 => Res.Ends.bind ?_ fun _ _ h2 => h2
  rcases nextPosition_cases e s1 with ⟨-, hn⟩ | ⟨-, -, hn⟩ | ⟨-, -, hn⟩ <;> rw [hn]
  · exact h1
  · exact h1
  · exact he h1

theorem microStarting_keepsStreams {s : State} (h : StreamsInv s) : KeepsStreams (microStarting s) :=
  (doStep_keepsStreams _ h).bind fun _ _ h1 => h1

theorem microStep_keepsStreams {s : State} (h : StreamsInv s) : KeepsStreams (microStep s) := by
  unfold microStep
  split
  · exact microStarting_keepsStreams h
  split
  · exact microPhase_keepsStreams _ endComputing_keepsStreams h
  split
  · exact microPhase_keepsStreams _ endStoring_keepsStreams h
  · exact (raised_raiseFatal _ s).streamsInv h

theorem scheduleNext_keepsStreams {s : State} (h : StreamsInv s) : KeepsStreams (scheduleNext s) := by
  unfold scheduleNext scheduleCompletion scheduleMain
  split <;> split
  · exact (raised_raiseFatal _ s).streamsInv h
  · exact h
  · exact (raised_raiseFatal _ s).streamsInv h
  · exact h

theorem invoke_keepsStreams {s : State} (h : StreamsInv s) : KeepsStreams (invoke s) :=
  (microStep_keepsStreams (s := beginInvocation s) h).bind fun _ _ h1 => scheduleNext_keepsStreams h1

theorem completeIfPending_streamsInv {s : State} (h : StreamsInv s) : StreamsInv (completeIfPending s) := by
  unfold completeIfPending
  split <;> exact h

/-! ## The host's operations -/

theorem entered_streamsInv (s : State) : StreamsInv (entered s) :=
  ⟨streamInv_configured .., streamInv_configured .., streamInv_configured .., streamInv_configured ..⟩

theorem entry_keepsStreams (s : State) : KeepsStreams (entry s) := by
  unfold entry
  split
  · exact entered_streamsInv s
  · trivial

theorem trigger_keepsStreams {s : State} (h : StreamsInv s) : KeepsStreams (trigger s) := by
  unfold trigger
  split
  · exact (raised_raiseFatal _ s).streamsInv h
  split
  · exact (raised_raiseFatal _ s).streamsInv h
  · exact entry_keepsStreams s

theorem cfgWrite_keepsStreams {r : CfgReg} {v : Word} {s : State} (h : StreamsInv s) :
    StepEnds StreamsInv True (cfgWrite r v s) := by
  refine stepEnds_unlessStopped h fun _ => ?_
  split
  · exact h
  · exact (raised_raiseFatal _ s).streamsInv h

/-! ## Every step -/

theorem finish_keepsStreams {α : Type} {s : State} {r : Res α} {f : α → Result} (h : StreamsInv s)
    (hr : KeepsStreams r) : StepEnds StreamsInv True (unlessStopped s (finish r f)) :=
  stepEnds_unlessStopped h fun _ => stepEnds_finish hr

theorem finishUnit_keepsStreams {s : State} {r : Res Unit} (h : StreamsInv s) (hr : KeepsStreams r) :
    StepEnds StreamsInv True (unlessStopped s (finishUnit r)) :=
  stepEnds_unlessStopped h fun _ => stepEnds_finishUnit hr

/-- Every operation, run or refused, keeps the descriptors' invariants; the cases not
listed are the 39 writes of JobConfig registers. -/
theorem exec_keepsStreams (i : Instr) {s : State} (h : StreamsInv s) :
    StepEnds StreamsInv True (exec i s) := by
  cases i with
  | trigger _ => exact finishUnit_keepsStreams h (trigger_keepsStreams h)
  | irqclr _ => exact stepEnds_unlessStopped h fun _ => h
  | fsmIdle => exact stepEnds_unlessStopped h fun _ => h
  | fsmStarting => exact finish_keepsStreams h (microStarting_keepsStreams h)
  | fsmComputing => exact finish_keepsStreams h (microPhase_keepsStreams _ endComputing_keepsStreams h)
  | fsmStoring => exact finish_keepsStreams h (microPhase_keepsStreams _ endStoring_keepsStreams h)
  | fsmFinished => exact stepEnds_unlessStopped h fun _ => completeIfPending_streamsInv h
  | stepNone => exact stepEnds_unlessStopped h fun _ => h
  | stepW => exact finish_keepsStreams h (gated_keepsStreams nextW_frame nextW_ne_fatal _ _ h)
  | stepX => exact finish_keepsStreams h (gated_keepsStreams nextX_frame nextX_ne_fatal _ _ h)
  | stepY => exact finish_keepsStreams h (gated_keepsStreams nextY_frame nextY_ne_fatal _ _ h)
  | stepZ => exact finish_keepsStreams h (gated_keepsStreams nextZ_frame nextZ_ne_fatal _ _ h)
  | sgConfigure => exact stepEnds_unlessStopped h fun _ => h.setDesc (streamInv_configured ..)
  | sgIterate str slot strobe => exact finish_keepsStreams h (iterate_keepsStreams str slot strobe h)
  | sgIsdone _ => exact stepEnds_unlessStopped h fun _ => h
  | tsAlloc => exact stepEnds_unlessStopped h fun _ => h
  | tsNextw => exact finish_keepsStreams h (nextW_frame.keepsStreams nextW_ne_fatal h)
  | tsNextx => exact finish_keepsStreams h (nextX_frame.keepsStreams nextX_ne_fatal h)
  | tsNexty => exact finish_keepsStreams h (nextY_frame.keepsStreams nextY_ne_fatal h)
  | tsNextz => exact finish_keepsStreams h (nextZ_frame.keepsStreams nextZ_ne_fatal h)
  | tsComputez => exact finishUnit_keepsStreams h (computeZ_keepsStreams h)
  | tsFree => exact stepEnds_unlessStopped h fun _ => h
  | mkstrobe count width =>
    refine finish_keepsStreams h ?_
    unfold strobeOf
    split
    · exact h
    · trivial
  | schedEntry => exact finishUnit_keepsStreams h (entry_keepsStreams s)
  | schedInvoke =>
    refine stepEnds_unlessStopped h fun _ => ?_
    split
    · exact stepEnds_finishUnit (invoke_keepsStreams h)
    · exact h
  | schedComplete => exact stepEnds_unlessStopped h fun _ => completeIfPending_streamsInv h
  | _ => exact cfgWrite_keepsStreams h

theorem undecodable_keepsStreams (e : DecodeError) {s : State} (h : StreamsInv s) :
    ActionEnds StreamsInv True (undecodable e s) := by
  cases e with
  | badOffset o => exact (raised_raiseFatal _ s).streamsInv h
  | badState c => exact (raised_raiseFatal _ s).streamsInv h
  | badSelector c => exact (raised_raiseFatal _ s).streamsInv h
  | notUnit => trivial

theorem ownAction_keepsStreams {s : State} (h : StreamsInv s) :
    ActionEnds StreamsInv True (ownAction s) := by
  unfold ownAction
  split
  · trivial
  split
  · exact exec_keepsStreams _ h
  split
  · exact exec_keepsStreams _ h
  · exact h

theorem initial_streamsInv (p : Params) : StreamsInv (State.initial p) :=
  ⟨streamInv_configured .., streamInv_configured .., streamInv_configured .., streamInv_configured ..⟩

theorem nextAction_keepsStreams {s : State} (h : StreamsInv s) :
    ActionEnds StreamsInv True (nextAction s) := by
  unfold nextAction
  split
  · exact ownAction_keepsStreams h
  · exact initial_streamsInv s.par
  · exact h
  · next w rest _ =>
    have h1 : StreamsInv (s.setInbox rest) := h
    unfold presentWord
    split
    · exact exec_keepsStreams _ h1
    · exact undecodable_keepsStreams _ h1

/-- Settles O29: a descriptor changes by a bubble, by a transaction on a stream that is not done, or by being
configured anew. -/
theorem stepKeepsStreamInvariants : Obligations.StepKeepsStreamInvariants := by
  unfold Obligations.StepKeepsStreamInvariants
  intro s t h ht
  exact (stepEnds_step (nextAction_keepsStreams h)).of_next ht

end Sys2Proof.Machine

/-! # The block invariant (10_state R19 to R22, R24, R30) -/

namespace Sys2Proof.Machine

/-! ## Legal parameters and jobs -/

theorem LegalParams.bounds {p : Params} (h : LegalParams p) :
    1 ≤ p.h ∧ 1 ≤ p.pr ∧ (p.eb = 1 ∨ p.eb = 2 ∨ p.eb = 4) := by
  have hwf := h.1
  simp only [Params.wf, Bool.and_eq_true, decide_eq_true_eq] at hwf
  obtain ⟨⟨⟨⟨hh, hpr⟩, -⟩, heb⟩, -⟩ := hwf
  exact ⟨hh, hpr, heb⟩

theorem LegalParams.aw_pos {p : Params} (h : LegalParams p) : 0 < p.aw := by
  obtain ⟨hh, hpr, -⟩ := h.bounds
  exact Nat.mul_pos hh hpr

theorem LegalParams.ncyc_pos {p : Params} (h : LegalParams p) : 0 < p.ncyc := h.bounds.1

theorem nsub_pos (p : Params) : 0 < p.nsub := Nat.succ_pos _

theorem full_lt (p : Params) : p.full < 2 ^ p.lb := Nat.sub_lt (Nat.two_pow_pos _) Nat.one_pos

/-- The hypercycles of a job: at least one, and few enough to be counted in 32 bits. -/
theorem JobInv.nh_bounds {p : Params} {j : Job} (h : JobInv p j) (hp : LegalParams p) :
    0 < j.nh ∧ j.nh ≤ j.n.toNat := by
  obtain ⟨hn, hnh, -⟩ := h
  have ha := hp.aw_pos
  have hn1 : 1 ≤ j.n.toNat := by bv_omega
  rw [hnh, ceilDivide]
  refine ⟨Nat.div_pos (by omega) ha, Nat.div_le_of_le_mul ?_⟩
  obtain ⟨a, ha'⟩ := Nat.exists_eq_add_of_le ha
  obtain ⟨n, hn'⟩ := Nat.exists_eq_add_of_le hn1
  rw [ha', hn']
  ring_nf
  omega

theorem JobInv.wCap_pos {p : Params} {j : Job} (h : JobInv p j) : 0 < j.wCap := by
  have hn : j.n ≠ 0 := h.1
  unfold Job.wCap
  bv_omega

theorem JobInv.xCap_pos {p : Params} {j : Job} (h : JobInv p j) : 0 < j.xCap p := by
  have hn : j.n ≠ 0 := h.1
  unfold Job.xCap
  bv_omega

/-! ## The tile store of an active job -/

/-- The buffers of an active job and their cursors (R19, R20, R30 c to e). -/
structure TilesInv (p : Params) (j : Job) (ts : TileStore) : Prop where
  store : StoreInv p ts
  loaded : LoadedInv p j ts
  allocated : ts.allocated = true

theorem TilesInv.wCap_eq {p : Params} {j : Job} {ts : TileStore} (h : TilesInv p j ts) :
    ts.wCap = j.wCap := by
  obtain ⟨⟨b, hb, hlen, -⟩, -⟩ := h.loaded
  simp only [Option.mem_def] at hb
  simp [TileStore.wCap, hb, hlen]

theorem TilesInv.xCap_eq {p : Params} {j : Job} {ts : TileStore} (h : TilesInv p j ts) (ha : 0 < p.aw) :
    ts.xCap = j.xCap p := by
  obtain ⟨-, ⟨b, hb, hlen, hrow⟩, -⟩ := h.loaded
  simp only [Option.mem_def] at hb
  cases b with
  | nil => simp at hlen; omega
  | cons row rows => simp [TileStore.xCap, hb, hrow row (by simp)]

/-- A line written to a slot of any kind keeps every extent, and no cursor moves. -/
theorem TilesInv.writeSlot {p : Params} {j : Job} {ts : TileStore} (h : TilesInv p j ts) (sl : Slot)
    {line : List TileElem} (hl : line.length = p.aw) : TilesInv p j (ts.writeSlot sl line) := by
  obtain ⟨⟨hy, hz, hstore⟩, ⟨⟨w, hw, hws⟩, ⟨x, hx, hxs⟩, hload⟩, ha⟩ := h
  simp only [Option.mem_def] at hw hx
  cases sl with
  | w row =>
    have hw' : (ts.writeSlot (.w row) line).w = some (w.set row line) := by simp [TileStore.writeSlot, hw]
    exact ⟨⟨hy, hz, hstore⟩, ⟨⟨_, hw', set_shape hws row line hl⟩, ⟨x, hx, hxs⟩, hload⟩, ha⟩
  | x row col =>
    have hx' : (ts.writeSlot (.x row col) line).x = some (x.modify row fun r => ringSet r col line) := by
      simp [TileStore.writeSlot, hx]
    exact ⟨⟨hy, hz, hstore⟩, ⟨⟨w, hw, hws⟩, ⟨_, hx', modify_ringSet_shape hxs row col line⟩, hload⟩, ha⟩
  | y row => exact ⟨⟨set_shape hy row line hl, hz, hstore⟩, ⟨⟨w, hw, hws⟩, ⟨x, hx, hxs⟩, hload⟩, ha⟩
  | z row => exact ⟨⟨hy, set_shape hz row line hl, hstore⟩, ⟨⟨w, hw, hws⟩, ⟨x, hx, hxs⟩, hload⟩, ha⟩

/-! ## The stream steps of an active job -/

/-- A next-slot operation has handed out a slot that exists, and the cursor it moved is in range. -/
def SlotReady (s : State) (j : Job) (sl : Slot) (t : State) : Prop :=
  (∃ ts, t = s.setTs ts) ∧ TilesInv s.par j t.ts ∧ ∃ line, t.ts.readSlot s.par sl = some line

section
variable {s : State} {j : Job}

theorem nextW_ends (h : TilesInv s.par j s.ts) : (nextW s).Ends (SlotReady s j) (Raised s) False := by
  have hcap := h.wCap_eq
  obtain ⟨hstore, ⟨⟨w, hw, hws⟩, hx, hcnt, hxC, hoffs⟩, ha⟩ := h
  have hmod : (s.ts.wCnt + 1) % j.wCap < j.wCap := Nat.mod_lt _ (by omega)
  simp only [Option.mem_def] at hw
  unfold nextW
  rw [hcap, if_neg (by omega)]
  refine ⟨⟨_, rfl⟩, ⟨hstore, ⟨⟨w, hw, hws⟩, hx, hmod, hxC, hoffs⟩, ha⟩, ?_⟩
  exact ⟨w[s.ts.wCnt]'(hws.1 ▸ hcnt), by simp [TileStore.readSlot, hw, hws.1, hcnt]⟩

theorem nextX_ends (h : TilesInv s.par j s.ts) : (nextX s).Ends (SlotReady s j) (Raised s) False := by
  obtain ⟨hy, hz, hyC, hzC, hxI, hyO⟩ := h.store
  obtain ⟨hw, ⟨x, hx, hxs⟩, hwC, hxC, hoffs⟩ := h.loaded
  have hmod : (s.ts.xC + s.par.aw) % j.xCap s.par < j.xCap s.par := Nat.mod_lt _ (by omega)
  have hslot : ∃ line, s.ts.readSlot s.par (.x s.ts.xI s.ts.xC) = some line := by
    simp only [Option.mem_def] at hx
    simp [TileStore.readSlot, hx, hxs.1, hxI]
  unfold nextX
  rw [h.xCap_eq (by omega), if_neg (by omega)]
  split
  · exact ⟨⟨_, rfl⟩, ⟨⟨hy, hz, hyC, hzC, Nat.zero_lt_of_lt hxI, hyO⟩,
      ⟨hw, ⟨x, hx, hxs⟩, hwC, hmod, hoffs⟩, h.allocated⟩, hslot⟩
  · next hlast => exact ⟨⟨_, rfl⟩, ⟨⟨hy, hz, hyC, hzC, by simp; omega, hyO⟩, h.loaded, h.allocated⟩, hslot⟩

theorem nextY_ends (h : TilesInv s.par j s.ts) : (nextY s).Ends (SlotReady s j) (Raised s) False := by
  obtain ⟨⟨hy, hz, hyC, hzC, hxI, hyO⟩, hload, ha⟩ := h
  have hmod : (s.ts.yCnt + 1) % s.par.aw < s.par.aw := Nat.mod_lt _ (by omega)
  have hrow : s.ts.yOffs + s.ts.yCnt < s.ts.y.length := by rw [hy.1]; omega
  exact ⟨⟨_, rfl⟩, ⟨⟨hy, hz, hmod, hzC, hxI, hyO⟩, hload, ha⟩,
    ⟨s.ts.y[s.ts.yOffs + s.ts.yCnt], by simp [TileStore.readSlot, hrow]⟩⟩

theorem nextZ_ends (h : TilesInv s.par j s.ts) : (nextZ s).Ends (SlotReady s j) (Raised s) False := by
  obtain ⟨⟨hy, hz, hyC, hzC, hxI, hyO⟩, hload, ha⟩ := h
  have hmod : (s.ts.zCnt + 1) % s.par.aw < s.par.aw := Nat.mod_lt _ (by omega)
  have hrow : s.ts.zCnt < s.ts.z.length := by rw [hz.1]; omega
  exact ⟨⟨_, rfl⟩, ⟨⟨hy, hz, hyC, hmod, hxI, hyO⟩, hload, ha⟩,
    ⟨s.ts.z[s.ts.zCnt], by simp [TileStore.readSlot, hrow]⟩⟩

/-- `SG.ITERATE` on a stream that is not done, with a slot that exists, is not refused (R91). -/
theorem iterate_ne_refused {str : Stream} {sl : Slot} {line : List TileElem} (strobe : Nat)
    (hd : isDone str s = false) (hl : s.ts.readSlot s.par sl = some line) (why : Refusal) :
    iterate str (some sl) strobe s ≠ .refused why := by
  have hr : ∀ str, readTransaction str sl s ≠ .refused why := by
    intro str
    unfold readTransaction
    split <;> simp [endTransaction]
  have hw : writeTransaction .z line strobe s ≠ .refused why := by
    unfold writeTransaction
    split <;> simp [endTransaction]
  unfold iterate
  simp only [hd, hl]
  cases str with
  | z => exact hw
  | x => exact hr .x
  | w => exact hr .w
  | y => exact hr .y

/-- A transaction with a slot that exists leaves the tile store's extents and cursors. -/
theorem iterate_ends {str : Stream} {sl : Slot} {line : List TileElem} (strobe : Nat)
    (h : TilesInv s.par j s.ts) (hd : isDone str s = false) (hl : s.ts.readSlot s.par sl = some line) :
    (iterate str (some sl) strobe s).Ends (fun _ t => TilesInv s.par j t.ts) (Raised s) False := by
  refine Res.ends_iff.2 ⟨fun lat t ht => ?_, fun t ht => iterate_fatal ht,
    fun why ht => iterate_ne_refused strobe hd hl why ht⟩
  rcases iterate_ok ht with ⟨hnone, -⟩ | ⟨sl', line', -, -, -, ⟨-, hw⟩ | ⟨-, hr⟩⟩
  · cases hnone
  · obtain ⟨l, s1, hn, -, rfl⟩ := writeTransaction_ok hw
    obtain ⟨-, -, hts, -⟩ := nextAnswer_frame hn
    simpa [hts] using h
  · obtain ⟨l, s1, hn, -, rfl⟩ := readTransaction_ok hr
    obtain ⟨⟨_, _, _, _, _, _, hpar, _⟩, -, hts, -⟩ := nextAnswer_frame hn
    simpa [hts] using h.writeSlot sl' (by simp [hpar])

theorem gated_ends {next : State → Res Slot} (str : Stream) (strobe : Nat) (h : TilesInv s.par j s.ts)
    (hn : (next s).Ends (SlotReady s j) (Raised s) False) :
    (gated str strobe next s).Ends (fun _ t => TilesInv s.par j t.ts) (Raised s) False := by
  unfold gated
  split
  · exact h
  · next hd =>
    refine hn.bind fun sl t ⟨⟨ts, hts⟩, htiles, line, hl⟩ => ?_
    subst hts
    have hd' : isDone str (s.setTs ts) = false := (Bool.not_eq_true _).mp hd
    exact (iterate_ends strobe htiles hd' hl).imp (fun _ _ _ h => h)
      fun t hr => hr.of_keeps (by simp [KeepsControl]) rfl

end

/-! ## The active job -/

/-- The job copy, the tile store and the scheduler of an active job (R19 to R22, R30). -/
structure ActiveInv (s : State) (j : Job) : Prop where
  job : s.job = some j
  jobInv : JobInv s.par j
  tiles : TilesInv s.par j s.ts
  progress : ProgressInv s.par j s.sch
  strobe : s.sch.zStrb < 2 ^ s.par.lb

/-- What an operation of the scheduler leaves alone beside the job: fault, the pending flags, the parameters
and the inputs still queued. -/
structure KeepsFlags (s t : State) : Prop where
  fault : t.fault = s.fault
  mainPending : t.mainPending = s.mainPending
  donePending : t.donePending = s.donePending
  par : t.par = s.par
  inbox : t.inbox = s.inbox

theorem KeepsFlags.trans {s t u : State} (h : KeepsFlags s t) (h' : KeepsFlags t u) : KeepsFlags s u :=
  ⟨h'.fault.trans h.fault, h'.mainPending.trans h.mainPending, h'.donePending.trans h.donePending,
    h'.par.trans h.par, h'.inbox.trans h.inbox⟩

theorem KeepsFlags.setSch (s : State) (c : Sched) : KeepsFlags s (s.setSch c) := ⟨rfl, rfl, rfl, rfl, rfl⟩

theorem KeepsFlags.setTs (s : State) (ts : TileStore) : KeepsFlags s (s.setTs ts) :=
  ⟨rfl, rfl, rfl, rfl, rfl⟩

/-- The job goes on in another position of the scheduler. -/
theorem ActiveInv.setSch {s : State} {j : Job} (h : ActiveInv s j) {c : Sched} (hp : ProgressInv s.par j c)
    (hz : c.zStrb < 2 ^ s.par.lb) : ActiveInv (s.setSch c) j := ⟨h.job, h.jobInv, h.tiles, hp, hz⟩

/-- The stream step of any turn keeps the job active: it succeeds, or its access is a fatal condition. -/
theorem doStep_ends {s : State} {j : Job} (h : ActiveInv s j) (o : Option Stream) :
    (doStep (turnSel o) s).Ends (fun _ t => ActiveInv t j ∧ KeepsFlags s t ∧ t.sch = s.sch) (Raised s)
      False := by
  have tiles : (doStep (turnSel o) s).Ends (fun _ t => TilesInv s.par j t.ts) (Raised s) False := by
    rcases o with _ | _ | _ | _ | _
    · exact h.tiles
    · exact gated_ends .x s.par.full h.tiles (nextX_ends h.tiles)
    · exact gated_ends .w s.par.full h.tiles (nextW_ends h.tiles)
    · exact gated_ends .y s.par.full h.tiles (nextY_ends h.tiles)
    · exact gated_ends .z s.sch.zStrb h.tiles (nextZ_ends h.tiles)
  refine tiles.imp (fun lat t ht htiles => ?_) fun _ hr => hr
  obtain ⟨⟨-, hjob, hsch, -, hm, hd, hpar, hin, -⟩, hf, -⟩ := doStep_frame ht
  refine ⟨⟨hjob.trans h.job, ?_, ?_, ?_, ?_⟩, ⟨hf, hm, hd, hpar, hin⟩, hsch⟩
  · rw [hpar]; exact h.jobInv
  · rw [hpar]; exact htiles
  · rw [hpar, hsch]; exact h.progress
  · rw [hpar, hsch]; exact h.strobe

/-! ## Positions and progress -/

/-- The state codes that have a micro-step (R119). -/
abbrev Running (c : Sched) : Prop := c.state = stStarting ∨ c.state = stComputing ∨ c.state = stStoring

section
variable {p : Params} {j : Job} {c : Sched}

theorem ProgressInv.position (h : ProgressInv p j c) (hs : c.state = stComputing ∨ c.state = stStoring) :
    c.cyc < p.ncyc ∧ c.sub < p.nsub := by
  obtain ⟨-, -, -, hpos, -⟩ := h
  exact hpos hs

/-- A position inside the hypercycle (R125). -/
theorem ProgressInv.setPosition (h : ProgressInv p j c) {cyc sub : Nat} (hc : cyc < p.ncyc)
    (hs : sub < p.nsub) : ProgressInv p j { c with cyc := cyc, sub := sub } := by
  obtain ⟨hst, hco, hso, -, hrest⟩ := h
  exact ⟨hst, hco, hso, fun _ => ⟨hc, hs⟩, hrest⟩

theorem ProgressInv.afterPreload (h : ProgressInv p j c) (hs : c.state = stStarting)
    (hp : LegalParams p) (hnh : 0 < j.nh) : ProgressInv p j (afterPreload p c) := by
  have hc := hp.ncyc_pos
  have hsub := nsub_pos p
  obtain ⟨hst, -, -, -, -, hw, hx, hj⟩ := h
  obtain ⟨hpre, hdone, hw0, hx0⟩ := hst hs
  unfold Machine.afterPreload
  split
  · exact ⟨by simp, fun _ => ⟨hnh, hdone⟩, by simp, fun _ => ⟨hc, hsub⟩, by simp, hw, hx, hj⟩
  · exact ⟨fun _ => ⟨by simp; omega, hdone, hw0, hx0⟩, by simp [hs], by simp [hs], by simp [hs],
      by simp [hs], hw, hx, hj⟩

/-- The next hypercycle of COMPUTING (R126). -/
theorem ProgressInv.nextHyper (h : ProgressInv p j c) (hs : c.state = stComputing)
    (hnh : j.nh ≤ j.n.toNat) (hl : c.hyper.toNat + 1 ≠ j.nh) :
    ProgressInv p j { c with hyper := c.hyper + 1 } := by
  obtain ⟨-, hco, -, hpos, -, hrest⟩ := h
  obtain ⟨hh, hdone⟩ := hco hs
  have hh' : (c.hyper + 1).toNat < j.nh := by bv_omega
  exact ⟨by simp [hs], fun _ => ⟨hh', hdone⟩, by simp [hs], hpos, by simp [hs], hrest⟩

/-- The transition into STORING with the bookkeeping of the pass done (R126, R128). -/
theorem ProgressInv.bookkept (h : ProgressInv p j c) (hs : c.state = stComputing) (m : Nat) :
    ProgressInv p j { bookkept p j m c with state := stStoring, hyper := 0 } := by
  obtain ⟨-, hco, -, hpos, -, hw, hx, -⟩ := h
  obtain ⟨-, hdone⟩ := hco hs
  have hx := hx hdone
  have hpos := hpos (Or.inl hs)
  have hw0 : 0 < j.wCols := by bv_omega
  unfold Machine.bookkept
  split
  · split
    · next _ hrows =>
      exact ⟨by simp, by simp, fun _ => rfl, fun _ => hpos, by simp, hw0, by simp, fun _ => ⟨hrows, rfl⟩⟩
    · next _ hrows =>
      have hx' : c.xRowsIters + 1 < j.xRows := by bv_omega
      exact ⟨by simp, by simp, fun _ => rfl, fun _ => hpos, by simp, hw0, fun _ => hx', by simp [hdone]⟩
  · next hcols =>
    have hw' : c.wColsIters + 1 < j.wCols := by bv_omega
    exact ⟨by simp, by simp, fun _ => rfl, fun _ => hpos, by simp, hw', fun _ => hx, by simp [hdone]⟩

/-- The end of the last pass (R130). -/
theorem ProgressInv.finish (h : ProgressInv p j c) (hd : c.jobDone = true) :
    ProgressInv p j { c with state := stFinished } := by
  obtain ⟨-, -, -, -, -, hrest⟩ := h
  exact ⟨by simp, by simp, by simp, by simp, fun _ => hd, hrest⟩

/-- The next pass (R130). -/
theorem ProgressInv.nextPass (h : ProgressInv p j c) (hs : c.state = stStoring) (hd : c.jobDone = false)
    (hnh : 0 < j.nh) : ProgressInv p j { c with state := stComputing, hyper := 0 } := by
  obtain ⟨-, -, -, hpos, -, hrest⟩ := h
  exact ⟨by simp, fun _ => ⟨hnh, hd⟩, by simp, fun _ => hpos (Or.inr hs), by simp, hrest⟩

theorem bookkept_zStrb_lt {m : Nat} (hm : m < 2 ^ p.lb) : (bookkept p j m c).zStrb < 2 ^ p.lb := by
  unfold Machine.bookkept
  split
  · split <;> exact hm
  · exact full_lt p

/-- The strobe of the last tile exists for every element width and fits the line (44_strobe R143). -/
theorem lastTileStrobe_lt (hp : LegalParams p) (j : Job) :
    ∃ m, lastTileStrobe p j = some m ∧ m < 2 ^ p.lb := by
  unfold lastTileStrobe
  split
  · obtain ⟨base, hb⟩ : ∃ base, baseMask p.eb = some base := by
      rcases hp.bounds.2.2 with h | h | h <;> simp [h, baseMask]
    refine ⟨orCopies base p.eb j.wColLo.toNat % 2 ^ p.lb, ?_, Nat.mod_lt _ (Nat.two_pow_pos _)⟩
    simp [mkStrobe, hb]
  · exact ⟨_, rfl, full_lt p⟩

end

/-! ## The end of a hypercycle -/

/-- The job goes on, the flags as they were. -/
structure Continues (s : State) (j : Job) (t : State) : Prop where
  active : ActiveInv t j
  code : t.sch.state ≠ stIdle ∧ t.sch.state.toNat ≤ 4
  flags : KeepsFlags s t

section
variable {s : State} {j : Job} {F : State → Prop}

/-- `TS.COMPUTEZ` of an active job (42_tile_store R104). -/
theorem computeZ_ends (h : ActiveInv s j) (hp : LegalParams s.par) :
    (computeZ s).Ends (fun _ t => ActiveInv t j ∧ KeepsFlags s t ∧ t.sch = s.sch) F False := by
  obtain ⟨⟨hy, -, hyC, hzC, hxI, hyO⟩, ⟨⟨w, hw, hws⟩, ⟨x, hx, hxs⟩, hwC, hxC, -⟩, ha⟩ := h.tiles
  have hoffs : (s.ts.xOffs + (j.n.toNat + j.xpad)) % s.ts.xCap < j.xCap s.par := by
    rw [h.tiles.xCap_eq hp.aw_pos]
    exact Nat.mod_lt _ h.jobInv.xCap_pos
  have hy' : (if s.ts.yOffs = 0 then s.par.aw else 0) = 0 ∨
      (if s.ts.yOffs = 0 then s.par.aw else 0) = s.par.aw := by split <;> simp
  have hz := kernelTile_shape s.par s.ts x w j.n.toNat
  have hxw := And.intro (Option.mem_def.1 hx) (Option.mem_def.1 hw)
  unfold computeZ
  rw [h.job, hxw.1, hxw.2]
  have htiles : TilesInv s.par j { s.ts with
      z := kernelTile s.par s.ts x w j.n.toNat
      xOffs := (s.ts.xOffs + (j.n.toNat + j.xpad)) % s.ts.xCap
      yOffs := if s.ts.yOffs = 0 then s.par.aw else 0 } :=
    ⟨⟨hy, hz, hyC, hzC, hxI, hy'⟩, ⟨⟨w, hw, hws⟩, ⟨x, hx, hxs⟩, hwC, hxC, hoffs⟩, ha⟩
  exact ⟨⟨h.job, h.jobInv, htiles, h.progress, h.strobe⟩, .setTs _ _, rfl⟩

theorem endComputing_ends (h : ActiveInv s j) (hp : LegalParams s.par) (hs : s.sch.state = stComputing) :
    (endComputing s).Ends (fun _ => Continues s j) F False := by
  unfold endComputing
  simp only [h.job]
  split
  · refine (computeZ_ends h hp).bind fun _ s1 ⟨h1, hk, hsch⟩ => ?_
    rw [← hk.par] at hp
    rw [← hsch] at hs
    obtain ⟨m, hm, hlt⟩ := lastTileStrobe_lt hp j
    simp only [storeBookkeeping, h1.job, hm, Res.bind_ok, Res.ends_ok]
    exact ⟨h1.setSch (h1.progress.bookkept hs m) (bookkept_zStrb_lt hlt), by simp [enterStoring],
      hk.trans (.setSch s1 _)⟩
  · next hl =>
    exact ⟨h.setSch (h.progress.nextHyper hs (h.jobInv.nh_bounds hp).2 hl) h.strobe, by simp [hs],
      .setSch s _⟩

theorem endStoring_ends (h : ActiveInv s j) (hp : LegalParams s.par) (hs : s.sch.state = stStoring) :
    (endStoring s).Ends (fun _ => Continues s j) F False := by
  unfold endStoring
  split
  · next hd => exact ⟨h.setSch (h.progress.finish hd) h.strobe, by simp, .setSch s _⟩
  · next hd =>
    have hd : s.sch.jobDone = false := by simpa using hd
    exact ⟨h.setSch (h.progress.nextPass hs hd (h.jobInv.nh_bounds hp).1) h.strobe, by simp, .setSch s _⟩

/-- `next_position()` keeps the job active if the end of the hypercycle does (R125). -/
theorem nextPosition_ends {e : State → Res Unit} (h : ActiveInv s j) (hp : LegalParams s.par)
    (hs : s.sch.state = stComputing ∨ s.sch.state = stStoring)
    (he : ∀ s1, ActiveInv s1 j → s1.par = s.par → s1.sch.state = s.sch.state →
      (e s1).Ends (fun _ => Continues s1 j) F False) :
    (nextPosition e s).Ends (fun _ => Continues s j) F False := by
  have hcode : s.sch.state ≠ stIdle ∧ s.sch.state.toNat ≤ 4 := by rcases hs with hs | hs <;> simp [hs]
  obtain ⟨hcyc, hsub⟩ := h.progress.position hs
  rcases nextPosition_cases e s with ⟨hl, hn⟩ | ⟨-, hl, hn⟩ | ⟨-, -, hn⟩ <;> rw [hn]
  · exact ⟨h.setSch (h.progress.setPosition hcyc (by omega)) h.strobe, hcode, .setSch s _⟩
  · exact ⟨h.setSch (h.progress.setPosition (by omega) (nsub_pos s.par)) h.strobe, hcode, .setSch s _⟩
  · have h0 := h.setSch (h.progress.setPosition hp.ncyc_pos (nsub_pos s.par)) h.strobe
    refine (he _ h0 rfl rfl).imp (fun _ t _ ht => ?_) fun _ hF => hF
    exact ⟨ht.active, ht.code, (KeepsFlags.setSch s _).trans ht.flags⟩

end

/-! ## The micro-step -/

section
variable {s : State} {j : Job}

theorem microPhase_ends {e : State → Res Unit} (h : ActiveInv s j) (hp : LegalParams s.par)
    (hs : s.sch.state = stComputing ∨ s.sch.state = stStoring) (o : Option Stream)
    (he : ∀ s1, ActiveInv s1 j → LegalParams s1.par → s1.sch.state = s.sch.state →
      (e s1).Ends (fun _ => Continues s1 j) (Raised s) False) :
    (microPhase (turnSel o) e s).Ends (fun _ => Continues s j) (Raised s) False := by
  refine (doStep_ends h o).bind fun lat s1 ⟨h1, hk, hsch⟩ => ?_
  have hp1 : LegalParams s1.par := by rw [hk.par]; exact hp
  refine Res.Ends.bind (nextPosition_ends h1 hp1 (by rw [hsch]; exact hs) fun s2 h2 hpar hst => ?_)
    fun _ t ht => ⟨ht.active, ht.code, hk.trans ht.flags⟩
  exact he s2 h2 (by rw [hpar]; exact hp1) (by rw [hst, hsch])

/-- A running job is still active after its micro-step, unless its access is a fatal condition. -/
theorem microStep_ends (h : ActiveInv s j) (hp : LegalParams s.par) (hs : Running s.sch) :
    (microStep s).Ends (fun _ => Continues s j) (Raised s) False := by
  rcases hs with hs | hs | hs
  · have hm : microStep s = microStarting s := by simp [microStep, hs]
    rw [hm, microStarting, turnSel_starting hs]
    refine (doStep_ends h _).bind fun lat t ⟨ht, hk, hsch⟩ => ?_
    rw [← hsch] at hs
    have hpt : LegalParams t.par := by rw [hk.par]; exact hp
    refine ⟨ht.setSch (ht.progress.afterPreload hs hpt (ht.jobInv.nh_bounds hpt).1) ?_, ?_,
      hk.trans (.setSch t _)⟩
    · unfold afterPreload; split <;> exact ht.strobe
    · simp only [State.setSch_sch, afterPreload]; split <;> simp [hs]
  · have hm : microStep s = microComputing s := by simp [microStep, hs]
    rw [hm, microComputing, turnSel_computing hs]
    exact microPhase_ends h hp (Or.inl hs) _ fun s1 h1 hp1 hst => endComputing_ends h1 hp1 (hst.trans hs)
  · have hm : microStep s = microStoring s := by simp [microStep, hs]
    rw [hm, microStoring, turnSel_storing hs]
    exact microPhase_ends h hp (Or.inr hs) _ fun s1 h1 hp1 hst => endStoring_ends h1 hp1 (hst.trans hs)

end

/-! ## From the active job to the block and back -/

/-- The main continuation is pending in the running states alone (R24). -/
theorem RunInv.mainPending_iff {s : State} (h : RunInv s) : s.mainPending = true ↔ Running s.sch := by
  obtain ⟨-, hm, -⟩ := h
  exact hm

/-- The completion is pending in FINISHED alone (R24). -/
theorem RunInv.donePending_iff {s : State} (h : RunInv s) :
    s.donePending = true ↔ s.sch.state = stFinished := by
  obtain ⟨-, -, hd, -⟩ := h
  exact hd

theorem RunInv.active {s : State} (h : RunInv s) (hs : s.sch.state ≠ stIdle) : ∃ j, ActiveInv s j := by
  obtain ⟨-, -, -, halloc, hstore, hz, -, hactive⟩ := h
  obtain ⟨j, hj, hjob, hload, hprog⟩ := hactive hs
  exact ⟨j, hj, hjob, ⟨hstore, hload, halloc.2 hs⟩, hprog, hz⟩

theorem ActiveInv.runInv {s : State} {j : Job} (h : ActiveInv s j)
    (hcode : s.sch.state ≠ stIdle ∧ s.sch.state.toNat ≤ 4)
    (hmain : s.mainPending = true ↔ Running s.sch)
    (hdone : s.donePending = true ↔ s.sch.state = stFinished) : RunInv s :=
  ⟨hcode.2, hmain, hdone, ⟨fun _ => hcode.1, fun _ => h.tiles.allocated⟩, h.tiles.store, h.strobe,
    fun hi => absurd hi hcode.1, fun _ => ⟨j, h.job, h.jobInv, h.tiles.loaded, h.progress⟩⟩

/-- An active code that is not FINISHED runs. -/
theorem running_of_code {c : Sched} (h : c.state ≠ stIdle ∧ c.state.toNat ≤ 4)
    (hf : c.state ≠ stFinished) : Running c := by
  obtain ⟨h0, h4⟩ := h
  simp only [Running]
  bv_omega

/-- An idle block: nothing pending, no job, the tile store as `TS.FREE` leaves it (R117, R132). -/
theorem runInv_idle {s : State} (hp : LegalParams s.par) (hs : s.sch.state = stIdle)
    (hz : s.sch.zStrb < 2 ^ s.par.lb) (hm : s.mainPending = false) (hd : s.donePending = false)
    (hj : s.job = none) (hts : s.ts = .free s.par) : RunInv s := by
  have ha := hp.aw_pos
  have hstore : StoreInv s.par (TileStore.free s.par) :=
    ⟨zeros_shape _ _, zeros_shape _ _, ha, ha, ha, Or.inl rfl⟩
  exact ⟨by simp [hs], by simp [hs, hm], by simp [hs, hd], by simp [hs, hts, TileStore.free],
    by rw [hts]; exact hstore, hz, fun _ => ⟨hj, hts⟩, fun h => absurd hs h⟩

/-- The block invariant holds and the queued inputs are as they were. -/
abbrev KeepsBlock (s t : State) : Prop := BlockInv t ∧ t.inbox = s.inbox

theorem Raised.keepsBlock {s t : State} (h : Raised s t) (hp : LegalParams s.par) : KeepsBlock s t := by
  obtain ⟨hf, ⟨_, _, _, _, _, _, hpar, hin, _⟩, -⟩ := h
  exact ⟨⟨by rw [hpar]; exact hp, fun hn => by simp [hn] at hf⟩, hin⟩

theorem scheduleNext_ends {s t : State} {j : Job} (hp : LegalParams s.par) (h : Continues s j t)
    (hm : s.mainPending = false) (hd : s.donePending = false) :
    (scheduleNext t).Ends (fun _ => KeepsBlock s) (KeepsBlock s) False := by
  obtain ⟨hact, hcode, hk⟩ := h
  have hm' : t.mainPending = false := hk.mainPending.trans hm
  have hd' : t.donePending = false := hk.donePending.trans hd
  have hpt : LegalParams t.par := by rw [hk.par]; exact hp
  unfold scheduleNext
  split
  · next hfin =>
    simp only [scheduleCompletion, hd', Bool.false_eq_true, if_false, Res.ends_ok]
    have hact' : ActiveInv (t.setDonePending true) j := { hact with }
    exact ⟨⟨hpt, fun _ => hact'.runInv hcode (by simp [hm', hfin]) (by simp [hfin])⟩, hk.inbox⟩
  · next hfin =>
    simp only [scheduleMain, hm', Bool.false_eq_true, if_false, Res.ends_ok]
    have hact' : ActiveInv (t.setMainPending true) j := { hact with }
    exact ⟨⟨hpt, fun _ => hact'.runInv hcode (by simpa using running_of_code hcode hfin)
      ⟨fun h => by simp [hd'] at h, fun h => absurd h hfin⟩⟩, hk.inbox⟩

theorem invoke_ends {s : State} (hp : LegalParams s.par) (h : RunInv s) (hm : s.mainPending = true) :
    (invoke s).Ends (fun _ => KeepsBlock s) (KeepsBlock s) False := by
  have hs : Running s.sch := h.mainPending_iff.1 hm
  have hne : s.sch.state ≠ stIdle ∧ s.sch.state ≠ stFinished := by rcases hs with hs | hs | hs <;> simp [hs]
  have hd : s.donePending = false := Bool.eq_false_iff.2 fun hd => hne.2 (h.donePending_iff.1 hd)
  obtain ⟨j, hact⟩ := h.active hne.1
  have h0 : ActiveInv (beginInvocation s) j := { hact with }
  have hmicro : (microStep (beginInvocation s)).Ends (fun _ => Continues (beginInvocation s) j)
      (KeepsBlock s) False :=
    (microStep_ends h0 hp hs).imp (fun _ _ _ ht => ht) fun _ ht => ht.keepsBlock (s := beginInvocation s) hp
  refine hmicro.bind fun lat t ⟨ht, hcode, hk⟩ => ?_
  have hcharged : Continues (beginInvocation s) j (chargeLatency lat t) :=
    ⟨{ ht with }, hcode, hk.trans (.setSch t _)⟩
  exact scheduleNext_ends (s := beginInvocation s) hp hcharged rfl hd

end Sys2Proof.Machine

/-! # The host's commands (40_host_commands R77 to R83) -/

namespace Sys2Proof.Machine

/-! ## CFGWR -/

@[simp] theorem packLeftover_fields (v : Word) :
    packLeftover (leftoverXRow v) (leftoverXCol v) (leftoverWRow v) (leftoverWCol v) = v := by
  unfold packLeftover leftoverXRow leftoverXCol leftoverWRow leftoverWCol
  rw [BitVec.extractLsb'_append_extractLsb'_eq_extractLsb' (show 24 = 16 + 8 from rfl),
    BitVec.extractLsb'_append_extractLsb'_eq_extractLsb' (show 16 = 8 + 8 from rfl),
    BitVec.extractLsb'_append_extractLsb'_eq_extractLsb' (show 8 = 0 + 8 from rfl),
    BitVec.extractLsb'_eq_self]

/-- Every command that writes a register is the one write of R77. -/
theorem exec_cfgwrOf (r : CfgReg) (v : Word) (s : State) : exec (cfgwrOf r v) s = cfgWrite r v s := by
  cases r with
  | stream str f => cases str <;> cases f <;> rfl
  | wIter => simp [cfgwrOf, exec, execCfgwrWIter]
  | xIter => simp [cfgwrOf, exec, execCfgwrXIter]
  | leftover => simp [cfgwrOf, exec, execCfgwrLeftover]

/-! ## The check of a configuration (R79) -/

theorem mem_allCfgRegs (r : CfgReg) : r ∈ allCfgRegs := by
  cases r with
  | stream str f => cases str <;> cases f <;> decide
  | wIter => decide
  | xIter => decide
  | leftover => decide

theorem allWritten_iff (c : JobConfig) : c.allWritten = true ↔ CfgWritten c := by
  simp [JobConfig.allWritten, CfgWritten, List.all_eq_true, mem_allCfgRegs]

theorem countsNonzero_iff (c : JobConfig) : countsNonzero c = true ↔ CfgCounts c := by
  simp only [countsNonzero, CfgCounts, Bool.and_eq_true, decide_eq_true_eq, and_assoc]
  bv_omega

theorem leftoversLegal_iff (p : Params) (c : JobConfig) :
    leftoversLegal p (c.val .leftover) = true ↔ CfgLeftovers p c := by
  simp only [leftoversLegal, CfgLeftovers, Bool.and_eq_true, decide_eq_true_eq, and_assoc]

theorem lengthsNonzero_iff (c : JobConfig) (str : Stream) :
    lengthsNonzero c str = true ↔ 1 ≤ (c.val (.stream str .d0Len)).toNat ∧
      1 ≤ (c.val (.stream str .d1Len)).toNat ∧ 1 ≤ (c.val (.stream str .d2Len)).toNat := by
  simp only [lengthsNonzero, Bool.and_eq_true, decide_eq_true_eq, and_assoc]
  bv_omega

theorem allLengthsNonzero_iff (c : JobConfig) :
    (lengthsNonzero c .x && lengthsNonzero c .w && lengthsNonzero c .y && lengthsNonzero c .z) = true ↔
      CfgLengths c := by
  simp only [Bool.and_eq_true, lengthsNonzero_iff]
  refine ⟨fun ⟨⟨⟨hx, hw⟩, hy⟩, hz⟩ str => ?_, fun h => ⟨⟨⟨h .x, h .w⟩, h .y⟩, h .z⟩⟩
  cases str with
  | x => exact hx
  | w => exact hw
  | y => exact hy
  | z => exact hz

/-- No check fails exactly when the configuration is valid (R79). -/
theorem cfgCheck_eq_none_iff (p : Params) (c : JobConfig) : cfgCheck p c = none ↔ CfgValid p c := by
  simp only [CfgValid, ← allWritten_iff, ← countsNonzero_iff, ← leftoversLegal_iff,
    ← allLengthsNonzero_iff, cfgCheck, Bool.not_eq_true']
  split
  · simp [*]
  split
  · simp [*]
  split
  · simp [*]
  split
  · simp [*]
  · simp_all

/-! ## The start of a job (R80, R81) -/

theorem contractionDim_bounds {p : Params} {xCols xColLo : Nat} (hc : 1 ≤ xCols) (hl : xColLo < p.aw) :
    1 ≤ contractionDim p xCols xColLo ∧ contractionDim p xCols xColLo ≤ xCols * p.aw := by
  obtain ⟨m, rfl⟩ := Nat.exists_eq_add_of_le' hc
  have hlast : 1 ≤ (if xColLo = 0 then p.aw else xColLo) ∧
      (if xColLo = 0 then p.aw else xColLo) ≤ p.aw := by
    split <;> omega
  rw [contractionDim, Nat.add_sub_cancel, Nat.add_mul]
  omega

/-- A valid configuration latches a job of the invariant. -/
theorem latchedJob_inv {p : Params} {c : JobConfig} (hp : LegalParams p) (hv : CfgValid p c) :
    JobInv p (latchedJob p c) := by
  obtain ⟨-, ⟨hxr, hxc, hwc⟩, ⟨-, hxl, -, hwl⟩, -⟩ := hv
  obtain ⟨hn1, hn2⟩ := contractionDim_bounds hxc hxl
  have hcols : (iterCols (c.val .xIter)).toNat * p.aw ≤ 65535 * p.aw :=
    Nat.mul_le_mul_right _ (Nat.le_of_lt_succ (iterCols (c.val .xIter)).isLt)
  have hn : (latchedJob p c).n ≠ 0 := by
    intro h0
    have hz : contractionDim p (iterCols (c.val .xIter)).toNat (leftoverXCol (c.val .leftover)).toNat
        % 2 ^ 32 = 0 := by simpa [latchedJob] using congrArg BitVec.toNat h0
    rw [Nat.mod_eq_of_lt (by have := hp.2; omega)] at hz
    omega
  refine ⟨hn, rfl, ?_, ?_, rfl, rfl, hwl⟩
  · change iterCols (c.val .wIter) ≠ 0
    bv_omega
  · change iterRows (c.val .xIter) ≠ 0
    bv_omega

/-- The entry action leaves an active job at the first preload step. -/
theorem entered_active {s : State} (hp : LegalParams s.par) (hv : CfgValid s.par s.cfg)
    (hts : s.ts = .free s.par) : ActiveInv (entered s) (latchedJob s.par s.cfg) := by
  have hj := latchedJob_inv hp hv
  have ⟨_, _, hw, hx, _⟩ := hj
  have ha := hp.aw_pos
  have hpre : 0 < s.par.npre := Nat.mul_pos (by decide) ha
  have hw : 0 < (latchedJob s.par s.cfg).wCols := by bv_omega
  have hx : 0 < (latchedJob s.par s.cfg).xRows := by bv_omega
  have hstore : StoreInv s.par (entered s).ts := by
    simp only [entered, State.setMainPending_ts, State.setSch_ts, State.setTs_ts, hts]
    exact ⟨zeros_shape _ _, zeros_shape _ _, ha, ha, ha, Or.inl rfl⟩
  have hoffs : (entered s).ts.xOffs = 0 := by
    change s.ts.xOffs = 0
    rw [hts]
    rfl
  have hloaded : LoadedInv s.par (latchedJob s.par s.cfg) (entered s).ts :=
    ⟨⟨_, rfl, unloaded_shape _ _⟩, ⟨_, rfl, unloaded_shape _ _⟩, hj.wCap_pos, hj.xCap_pos,
      by rw [hoffs]; exact hj.xCap_pos⟩
  exact ⟨rfl, hj, ⟨hstore, hloaded, rfl⟩,
    ⟨fun _ => ⟨hpre, rfl, rfl, rfl⟩, by simp [entered, startedSched], by simp [entered, startedSched],
      by simp [entered, startedSched], by simp [entered, startedSched], hw, fun _ => hx,
      by simp [entered, startedSched, Sched.idle]⟩,
    full_lt s.par⟩

end Sys2Proof.Machine

/-! # Steps at the block's boundary (60_exceptions R161) -/

namespace Sys2Proof.Machine

/-! ## The operations of the boundary -/

/-- The operations a step of the boundary runs: a host command, or a continuation. -/
inductive BoundaryOp : Instr → Prop
  | cfgwr (r : CfgReg) (v : Word) : BoundaryOp (cfgwrOf r v)
  | trigger (d : Word) : BoundaryOp (.trigger d)
  | irqclr (d : Word) : BoundaryOp (.irqclr d)
  | schedInvoke : BoundaryOp .schedInvoke
  | schedComplete : BoundaryOp .schedComplete

theorem decodeHc_cases (word : BitVec 40) :
    (∃ i, decodeHc word = .ok i ∧ BoundaryOp i) ∨
      decodeHc word = .error (.badOffset (hcOffset word)) := by
  unfold decodeHc
  split
  · exact Or.inl ⟨_, rfl, .cfgwr _ _⟩
  split
  · exact Or.inl ⟨_, rfl, .trigger _⟩
  split
  · exact Or.inl ⟨_, rfl, .irqclr _⟩
  · exact Or.inr rfl

/-- The words of the boundary. -/
theorem boundaryWord_cases {w : OpWord} (hw : (Input.word w).atBoundary = true) :
    (∃ word, w = .hc word) ∨ w = .unit .schedInvoke ∨ w = .unit .schedComplete := by
  cases w with
  | hc word => exact Or.inl ⟨word, rfl⟩
  | st code => cases hw
  | sel code => cases hw
  | unit op =>
    cases op with
    | schedInvoke => exact Or.inr (Or.inl rfl)
    | schedComplete => exact Or.inr (Or.inr rfl)
    | _ => cases hw

/-- What a word of the boundary does: it runs an operation of the boundary, or its offset is reserved. -/
theorem presentWord_cases {w : OpWord} (hw : (Input.word w).atBoundary = true) (s : State) :
    (∃ i, presentWord w s = .run i s ∧ BoundaryOp i) ∨
      ∃ o, presentWord w s = .become (raiseFatal (.badOffset o) s) := by
  rcases boundaryWord_cases hw with ⟨word, rfl⟩ | rfl | rfl
  · rcases decodeHc_cases word with ⟨i, hi, hb⟩ | he
    · exact Or.inl ⟨i, by simp [presentWord, decode, hi], hb⟩
    · exact Or.inr ⟨hcOffset word, by simp [presentWord, decode, he, undecodable]⟩
  · exact Or.inl ⟨.schedInvoke, rfl, .schedInvoke⟩
  · exact Or.inl ⟨.schedComplete, rfl, .schedComplete⟩

/-! ## Each keeps the block -/

theorem BlockInv.keepsBlock_self {s : State} (h : BlockInv s) : KeepsBlock s s := ⟨h, rfl⟩

theorem cfgWrite_keepsBlock (r : CfgReg) (v : Word) {s : State} (h : BlockInv s) :
    StepEnds (KeepsBlock s) False (cfgWrite r v s) := by
  refine stepEnds_unlessStopped h.keepsBlock_self fun _ => ?_
  split
  · exact ⟨h, rfl⟩
  · exact (raised_raiseFatal _ s).keepsBlock h.1

theorem trigger_keepsBlock {s : State} (h : BlockInv s) (hf : s.fault = none) :
    (trigger s).Ends (fun _ => KeepsBlock s) (KeepsBlock s) False := by
  obtain ⟨hp, hrun⟩ := h
  unfold trigger
  split
  · exact (raised_raiseFatal _ s).keepsBlock hp
  · next hidle =>
    split
    · exact (raised_raiseFatal _ s).keepsBlock hp
    · next hcheck =>
      have hidle : s.sch.state = stIdle := not_not.1 hidle
      obtain ⟨-, -, hd, -, -, -, hfree, -⟩ := hrun hf
      have hact := entered_active hp ((cfgCheck_eq_none_iff _ _).1 hcheck) (hfree hidle).2
      have hdone : s.donePending = false := by simpa [hidle] using hd
      simp only [entry, hcheck, Res.ends_ok]
      exact ⟨⟨hp, fun _ => hact.runInv ⟨by simp [entered, startedSched], by simp [entered, startedSched]⟩
        (by simp [Running, entered, startedSched]) (by simp [entered, startedSched, hdone])⟩, rfl⟩

theorem completeIfPending_keepsBlock {s : State} (h : BlockInv s) (hf : s.fault = none) :
    KeepsBlock s (completeIfPending s) := by
  unfold completeIfPending
  split
  · next hd =>
    obtain ⟨-, hm, hfin, -, -, hz, -⟩ := h.2 hf
    have hmain : s.mainPending = false := by simpa [hfin.1 hd] using hm
    exact ⟨⟨h.1, fun _ => runInv_idle (s := complete s) h.1 rfl hz hmain rfl rfl rfl⟩, rfl⟩
  · exact h.keepsBlock_self

/-- An operation of the boundary answers, and keeps the block invariant. -/
theorem exec_keepsBlock {i : Instr} (hi : BoundaryOp i) {s : State} (h : BlockInv s) :
    StepEnds (KeepsBlock s) False (exec i s) := by
  cases hi with
  | cfgwr r v => rw [exec_cfgwrOf]; exact cfgWrite_keepsBlock r v h
  | trigger d =>
    exact stepEnds_unlessStopped h.keepsBlock_self fun hf => stepEnds_finishUnit (trigger_keepsBlock h hf)
  | irqclr d => exact stepEnds_unlessStopped h.keepsBlock_self fun _ => ⟨h, rfl⟩
  | schedInvoke =>
    refine stepEnds_unlessStopped h.keepsBlock_self fun hf => ?_
    split
    · next hm => exact stepEnds_finishUnit (invoke_ends h.1 (h.2 hf) hm)
    · exact h.keepsBlock_self
  | schedComplete =>
    exact stepEnds_unlessStopped h.keepsBlock_self fun hf => completeIfPending_keepsBlock h hf

/-! ## Every step of the boundary -/

/-- The one stop: a fatal condition is recorded and nothing is queued (10_state R26; log entry 12). -/
theorem step_blockStopped {s : State} {f : Fatal} (hi : s.inbox = []) (hf : s.fault = some f) :
    step s = .fault (.blockStopped f) := by
  simp [step, nextAction, hi, ownAction, hf]

theorem ownAction_keepsBlock {s : State} (h : BlockInv s) (hf : s.fault = none) :
    ActionEnds (KeepsBlock s) False (ownAction s) := by
  unfold ownAction
  simp only [hf]
  split
  · exact exec_keepsBlock .schedComplete h
  split
  · exact exec_keepsBlock .schedInvoke h
  · exact h.keepsBlock_self

theorem presentWord_keepsBlock {w : OpWord} (hw : (Input.word w).atBoundary = true) {s : State}
    (h : BlockInv s) : ActionEnds (KeepsBlock s) False (presentWord w s) := by
  rcases presentWord_cases hw s with ⟨i, he, hi⟩ | ⟨o, he⟩ <;> rw [he]
  · exact exec_keepsBlock hi h
  · exact (raised_raiseFatal _ s).keepsBlock h.1

/-- The block after reset (R29), whatever memory, queue and answers are. -/
theorem resetInput_blockInv {s : State} (hp : LegalParams s.par) : BlockInv (resetInput s) :=
  ⟨hp, fun _ => runInv_idle (s := resetInput s) hp rfl (full_lt s.par) rfl rfl rfl rfl⟩

/-- A step of the boundary that does not meet the one stop answers, and keeps the block invariant; of the
queued inputs at most the first is gone. -/
theorem step_keepsBlock {s : State} (h : BlockInv s) (hb : s.boundaryOnly)
    (hr : s.inbox ≠ [] ∨ s.fault = none) :
    StepEnds (fun t => BlockInv t ∧ t.inbox = s.inbox.tail) False (step s) := by
  apply stepEnds_step
  unfold nextAction
  split
  · next hi =>
    have hf : s.fault = none := hr.resolve_left (not_not.2 hi)
    have htail : s.inbox.tail = s.inbox := by rw [hi]; rfl
    rw [htail]
    exact ownAction_keepsBlock h hf
  · next rest hi => exact ⟨resetInput_blockInv (s := s.setInbox rest) h.1, by rw [hi]; rfl⟩
  · next addr value rest hi => exact ⟨h, by rw [hi]; rfl⟩
  · next w rest hi =>
    have hw : (Input.word w).atBoundary = true := hb _ (by simp [hi])
    rw [hi]
    exact presentWord_keepsBlock hw (s := s.setInbox rest) h

/-- Settles O56: reset, a host command and a continuation each lead from the invariant to the invariant. -/
theorem boundaryStepKeepsBlockInvariant : Obligations.BoundaryStepKeepsBlockInvariant := by
  unfold Obligations.BoundaryStepKeepsBlockInvariant
  intro s t h hb ht
  have hr : s.inbox ≠ [] ∨ s.fault = none := by
    by_contra hc
    obtain ⟨hi, hf⟩ := not_or.1 hc
    obtain ⟨f, hf⟩ := Option.ne_none_iff_exists'.1 hf
    rw [step_blockStopped (not_not.1 hi) hf] at ht
    cases ht
  obtain ⟨hinv, hin⟩ := (step_keepsBlock h hb hr).of_next ht
  exact ⟨hinv, fun i hi => hb i (List.mem_of_mem_tail (hin ▸ hi))⟩

/-- Settles O58: the stopped block with nothing queued apart, the step answers. -/
theorem boundaryStepAlwaysAnswers : Obligations.BoundaryStepAlwaysAnswers := by
  unfold Obligations.BoundaryStepAlwaysAnswers
  intro s h hb
  by_cases hr : s.inbox ≠ [] ∨ s.fault = none
  · obtain ⟨t, ht, -⟩ := (step_keepsBlock h hb hr).exists_next
    exact Or.inl ⟨t, ht⟩
  · obtain ⟨hi, hf⟩ := not_or.1 hr
    obtain ⟨f, hf⟩ := Option.ne_none_iff_exists'.1 hf
    exact Or.inr ⟨not_not.1 hi, f, hf, step_blockStopped (not_not.1 hi) hf⟩

end Sys2Proof.Machine

/-! # Rule R30 (10_state R30) -/

namespace Sys2Proof.Machine

/-- Settles O57: each clause of R30 is one of the invariant's, read with the state code it fixes. -/
theorem ruleR30FollowsFromTheInvariant : Obligations.RuleR30FollowsFromTheInvariant := by
  unfold Obligations.RuleR30FollowsFromTheInvariant RuleR30
  intro s h hf
  have hrun := h.2 hf
  have ⟨hcode, hmain, hdone, halloc, ⟨_, _, hyC, hzC, hxI, hyO⟩, _⟩ := hrun
  have hactive : s.sch.state ≠ stIdle → Running s.sch ∨ s.sch.state = stFinished := fun hs =>
    or_iff_not_imp_right.2 (running_of_code ⟨hs, hcode⟩)
  refine ⟨⟨fun hs => ?_, fun ⟨hm, hd⟩ => ?_⟩, hdone, halloc.trans ⟨fun hs => ?_, ?_⟩, hyO,
    ⟨hxI, hyC, hzC, fun ha => ?_⟩, fun hs => ?_⟩
  · rw [hs] at hmain hdone
    exact ⟨by simpa using hmain, by simpa using hdone⟩
  · by_contra hs
    rcases hactive hs with hr | hfin
    · simp [hmain.2 hr] at hm
    · simp [hdone.2 hfin] at hd
  · rcases hactive hs with (hs | hs | hs) | hs <;> simp [hs]
  · rintro (hs | hs | hs | hs) <;> simp [hs]
  · obtain ⟨j, hj⟩ := hrun.active (halloc.1 ha)
    obtain ⟨-, -, hcaps⟩ := hj.tiles.loaded
    exact ⟨j, hj.job, hcaps⟩
  · obtain ⟨j, hj⟩ := hrun.active hs
    obtain ⟨-, -, -, -, -, hw, hx, hd⟩ := hj.progress
    refine ⟨j, hj.job, hw, ?_, fun h => (hd h).1⟩
    cases hjd : s.sch.jobDone with
    | false => exact BitVec.le_of_lt (hx hjd)
    | true => exact BitVec.le_of_eq (hd hjd).1

end Sys2Proof.Machine

/-! # The state at reset (10_state R29) -/

namespace Sys2Proof.Machine

/-- Settles O55: reset leaves an idle block, all-zero descriptors, an empty memory and nothing queued. -/
theorem invariantsHoldAtReset : Obligations.InvariantsHoldAtReset := by
  unfold Obligations.InvariantsHoldAtReset
  intro p hp
  exact ⟨⟨hp, fun _ => runInv_idle hp rfl (full_lt p) rfl rfl rfl rfl⟩, initial_streamsInv p, Memory.nil_wf,
    fun _ hi => absurd hi List.not_mem_nil⟩

theorem zeros_elem {rows cols r c : Nat} (hr : r < rows) (hc : c < cols) :
    (TileBuf.zeros rows cols).elem r c = some 0 := by
  simp [TileBuf.elem, TileBuf.zeros, hr, hc]

theorem unwritten_reg (r : CfgReg) : JobConfig.unwritten.reg r = none := by
  cases r with
  | stream str f => cases str <;> cases f <;> rfl
  | wIter => rfl
  | xIter => rfl
  | leftover => rfl

/-- Settles O8: the registers by `unwritten_reg`, the tiles by `zeros_elem`, the strobe by the bits of
`2 ^ LB - 1`. -/
theorem resetLeavesTheTableOfR29 : Obligations.ResetLeavesTheTableOfR29 := by
  unfold Obligations.ResetLeavesTheTableOfR29
  intro p
  refine ⟨unwritten_reg, rfl, fun str => by cases str <;> rfl, rfl, rfl, fun r c hr hc => zeros_elem hr hc,
    fun r c hr hc => zeros_elem hr hc, by simp [State.initial, TileStore.free],
    by simp [State.initial, Sched.idle], fun q => ?_, by simp [State.initial]⟩
  exact Nat.testBit_two_pow_sub_one p.lb q

/-- Settles O9: the reset input is taken from the queue, and the block becomes its initial state. -/
theorem resetInputResetsTheBlock : Obligations.ResetInputResetsTheBlock := by
  unfold Obligations.ResetInputResetsTheBlock
  intro s rest hi
  have hact : nextAction s = .become (resetInput (s.setInbox rest)) := by simp [nextAction, hi]
  simp [step, hact, resetInput]

end Sys2Proof.Machine

/-! # The recorded fatal condition (10_state R26, 60_exceptions R147) -/

namespace Sys2Proof.Machine

/-- Every operation begins with the test of the fault register (R147; log entry 12). -/
theorem exec_of_fault {s : State} {f : Fatal} (i : Instr) (hf : s.fault = some f) : exec i s = .next s := by
  cases i <;> exact unlessStopped_of_some s _ f hf

/-- The fault register and the rest of the block's state are as they were (10_state R13). -/
def Frozen (s t : State) : Prop :=
  t.fault = s.fault ∧ t.cfg = s.cfg ∧ t.job = s.job ∧ t.sg = s.sg ∧ t.ts = s.ts ∧ t.sch = s.sch ∧
    t.irq = s.irq ∧ t.mainPending = s.mainPending ∧ t.donePending = s.donePending

theorem Frozen.setInbox (s : State) (rest : List Input) : Frozen s (s.setInbox rest) :=
  ⟨rfl, rfl, rfl, rfl, rfl, rfl, rfl, rfl, rfl⟩

/-- A word presented to a stopped block changes nothing, whatever it decodes to. -/
theorem presentWord_of_fault {P : State → Prop} {s : State} {f : Fatal} (w : OpWord) (hf : s.fault = some f)
    (hP : P s) : ActionEnds P True (presentWord w s) := by
  have raise : ∀ g, P (raiseFatal g s) := fun g => by rwa [raiseFatal_of_some g f s hf]
  unfold presentWord
  split
  · next i _ =>
    change StepEnds P True (exec i s)
    rwa [exec_of_fault i hf]
  · next e _ =>
    cases e with
    | badOffset o => exact raise _
    | badState c => exact raise _
    | badSelector c => exact raise _
    | notUnit => trivial

/-- A step of a stopped block: the reset, or nothing of the block. -/
theorem nextAction_of_fault {s : State} {f : Fatal} (hf : s.fault = some f) :
    ActionEnds (fun t => (∃ rest, s.inbox = .reset :: rest ∧ t.fault = none) ∨ Frozen s t) True
      (nextAction s) := by
  unfold nextAction
  split
  · simp only [ownAction, hf]
    trivial
  · next rest hi => exact Or.inl ⟨rest, hi, rfl⟩
  · exact Or.inr ⟨rfl, rfl, rfl, rfl, rfl, rfl, rfl, rfl, rfl⟩
  · next w rest _ =>
    exact presentWord_of_fault (s := s.setInbox rest) w hf (Or.inr (.setInbox s rest))

/-- Settles O21: a stopped block takes a reset, or each operation ends at its first test. -/
theorem faultIsClearedByResetAlone : Obligations.FaultIsClearedByResetAlone := by
  unfold Obligations.FaultIsClearedByResetAlone
  intro s t f hf ht
  rcases (stepEnds_step (nextAction_of_fault hf)).of_next ht with hreset | ⟨hfault, hrest⟩
  · exact Or.inl hreset
  · exact Or.inr ⟨hfault.trans hf, hrest⟩

end Sys2Proof.Machine

/-! # Register files and dispatches -/

namespace Sys2Proof.Machine

theorem StreamCfg.reg_setReg (c : StreamCfg) (f f' : StreamField) (v : Option Word) :
    (c.setReg f v).reg f' = if f' = f then v else c.reg f' := by
  split
  · next h => rw [h, StreamCfg.reg_setReg_same]
  · next h => exact StreamCfg.reg_setReg_other c f f' v h

theorem JobConfig.reg_setReg (c : JobConfig) (r r' : CfgReg) (v : Option Word) :
    (c.setReg r v).reg r' = if r' = r then v else c.reg r' := by
  cases r with
  | stream str f =>
    cases r' with
    | stream str' f' =>
      cases str <;> cases str' <;> simp [JobConfig.setReg, JobConfig.reg, StreamCfg.reg_setReg]
    | _ => cases str <;> rfl
  | _ =>
    cases r' with
    | stream str' f' => cases str' <;> rfl
    | _ => rfl

theorem Streams.desc_setDesc (g : Streams) (str str' : Stream) (d : StreamDesc) :
    (g.setDesc str d).desc str' = if str' = str then d else g.desc str' := by
  split
  · next h => rw [h, Streams.desc_setDesc_same]
  · next h => exact Streams.desc_setDesc_other g str str' d h

/-- Settles O13: reading after a write compares the two names. -/
theorem cfgRegistersAreSeparate : Obligations.CfgRegistersAreSeparate :=
  ⟨JobConfig.reg_setReg, Streams.desc_setDesc⟩

/-- A state code without a micro-step (R119, 60_exceptions R148). -/
theorem microStep_badState {s : State} (h1 : s.sch.state ≠ stStarting) (h2 : s.sch.state ≠ stComputing)
    (h3 : s.sch.state ≠ stStoring) :
    microStep s = .fatal (raiseFatal (.badState s.sch.state) s) := by
  rw [microStep, if_neg h1, if_neg h2, if_neg h3]

/-- A selector code without a stream step (R120, 60_exceptions R149). -/
theorem doStep_badSelector {sel : BitVec 3} (h : 4 < sel.toNat) (s : State) :
    doStep sel s = .fatal (raiseFatal (.badSelector sel) s) := by
  have hne : sel ≠ selNone ∧ sel ≠ selW ∧ sel ≠ selX ∧ sel ≠ selY ∧ sel ≠ selZ := by bv_omega
  obtain ⟨h0, h1, h2, h3, h4⟩ := hne
  rw [doStep, if_neg h0, if_neg h1, if_neg h2, if_neg h3, if_neg h4]

/-- Settles O5: the codes with a step by the dispatch itself, the others by the two fatal conditions. -/
theorem dispatchFollowsTheCodes : Obligations.DispatchFollowsTheCodes := by
  unfold Obligations.DispatchFollowsTheCodes
  refine ⟨fun s => ⟨fun hs => by simp [microStep, hs], fun hs => by simp [microStep, hs],
    fun hs => by simp [microStep, hs], fun h1 h2 h3 hf => ⟨?_, fun hm => ?_⟩,
    fun h hf hm => (RunInv.mainPending_iff (h.2 hf)).1 hm⟩,
    fun s => ⟨rfl, rfl, rfl, rfl, rfl, fun hf sel hsel => ?_⟩⟩
  · rw [microStep_badState h1 h2 h3, raiseFatal_of_none _ s hf]
    rfl
  · have hmicro : microStep (beginInvocation s) =
        .fatal (raiseFatal (.badState s.sch.state) (beginInvocation s)) :=
      microStep_badState (s := beginInvocation s) h1 h2 h3
    have hraise : raiseFatal (.badState s.sch.state) (beginInvocation s) =
        (beginInvocation s).setFault (some (.badState s.sch.state)) := raiseFatal_of_none _ _ hf
    simp only [exec, execSchedInvoke, unlessStopped_of_none s _ hf, hm, if_true, invoke, hmicro, hraise]
    rfl
  · rw [doStep_badSelector hsel, raiseFatal_of_none _ s hf]
    rfl

end Sys2Proof.Machine

/-! # The start of a job, field by field (40_host_commands R78, R80) -/

namespace Sys2Proof.Machine

theorem pad_toNat (p : Params) (v : BitVec 8) : p.pad v.toNat = if v = 0 then 0 else p.aw - v.toNat := by
  simp [Params.pad, BitVec.toNat_eq]

/-- With a valid configuration `TRIGGER` in IDLE, and SCHED.ENTRY, run the entry action (R78). -/
theorem exec_entry {s : State} {d : Word} {i : Instr} (hf : s.fault = none) (hv : CfgValid s.par s.cfg)
    (hi : (i = .trigger d ∧ s.sch.state = stIdle) ∨ i = .schedEntry) : exec i s = .next (entered s) := by
  have hcheck := (cfgCheck_eq_none_iff s.par s.cfg).2 hv
  have hentry : entry s = .ok () (entered s) := by simp [entry, hcheck]
  rcases hi with ⟨rfl, hidle⟩ | rfl
  · simp [exec, execTrigger, unlessStopped_of_none s _ hf, trigger, hidle, hcheck, hentry]
  · simp [exec, execSchedEntry, unlessStopped_of_none s _ hf, hentry]

/-- Settles O16: both operations run the entry action, whose state is read off field by field. -/
theorem triggerStartsTheJob : Obligations.TriggerStartsTheJob := by
  unfold Obligations.TriggerStartsTheJob
  intro s d i hf hv hi
  refine ⟨entered s, exec_entry hf hv hi, fun j hj => ?_, fun str => by cases str <;> rfl, rfl, rfl, rfl⟩
  obtain rfl : latchedJob s.par s.cfg = j := Option.some.inj hj
  refine ⟨rfl, rfl, rfl, rfl, rfl, rfl, rfl, rfl, ?_, rfl, pad_toNat _ _, pad_toNat _ _, rfl⟩
  simp [latchedJob, contractionDim, BitVec.toNat_eq]

end Sys2Proof.Machine

/-! # The read form of SG.ITERATE (41_stride_generator R87, R88) -/

namespace Sys2Proof.Machine

/-- Taking the memory's answer moves nothing but where the answers come from. -/
theorem nextAnswer_eq {s s1 : State} {a : MemAnswer} (h : nextAnswer s = (a, s1)) :
    s1 = { s with memAnswers := s1.memAnswers, memDraws := s1.memDraws } := by
  rcases nextAnswer_cases s with ⟨a', rest, -, h'⟩ | ⟨-, h'⟩ <;> rw [h'] at h <;> cases h <;> rfl

/-- Another stream than Z, not done, with a slot that exists, makes a read (R85, R88). -/
theorem iterate_read {s : State} {str : Stream} {sl : Slot} {line : List TileElem} (strobe : Nat)
    (hz : str ≠ .z) (hd : isDone str s = false) (hl : s.ts.readSlot s.par sl = some line) :
    iterate str (some sl) strobe s = readTransaction str sl s := by
  cases str <;> simp_all [iterate]

/-- Settles O24: the transaction is a read, and its answer moves only the memory's answers. -/
theorem sgIterateReadsALine : Obligations.SgIterateReadsALine := by
  unfold Obligations.SgIterateReadsALine
  intro s s1 str sl strobe l old addr hf hz hd hl hn haddr
  have hread : Memory.readBytes s.mem (StreamDesc.addr (s.sg.desc str)) s.par.lb =
      (List.range (s.par.aw * s.par.eb)).map (fun q => Memory.read s.mem ((addr.toNat + q) % 2 ^ 32)) := by
    rw [Memory.readBytes_eq, haddr]
    rfl
  have hs1 := nextAnswer_eq hn
  rw [← hread]
  simp only [exec, execSgIterate, unlessStopped_of_none s _ hf,
    iterate_read strobe hz (by simp [isDone, hd]) hl, readTransaction, hn, endTransaction, finish_ok]
  rw [hs1]
  rfl

end Sys2Proof.Machine

/-! # The fused multiply-add stays in its format (42_tile_store R105, R107) -/

namespace Sys2Proof

section
variable {f : FloatFormat}

/-- A magnitude below the sign bit, with or without the sign. -/
theorem withSign_lt (neg : Bool) {m : Nat} (h : m < 2 ^ (f.expBits + f.fracBits)) :
    f.withSign neg m < 2 ^ (1 + f.expBits + f.fracBits) := by
  rw [Nat.add_assoc, Nat.add_comm 1, Nat.pow_succ]
  unfold FloatFormat.withSign
  split <;> omega

/-- The exponent field of an infinity leaves room for every fraction. -/
theorem expMax_shift (f : FloatFormat) :
    f.expMax * 2 ^ f.fracBits + 2 ^ f.fracBits = 2 ^ (f.expBits + f.fracBits) := by
  have h : f.expMax + 1 = 2 ^ f.expBits := Nat.sub_add_cancel Nat.one_le_two_pow
  rw [← Nat.succ_mul, Nat.succ_eq_add_one, h, Nat.pow_add]

theorem expMax_shift_lt (f : FloatFormat) : f.expMax * 2 ^ f.fracBits < 2 ^ (f.expBits + f.fracBits) := by
  have h := expMax_shift f
  have := Nat.two_pow_pos f.fracBits
  omega

theorem infinity_lt (neg : Bool) : f.infinity neg < 2 ^ (1 + f.expBits + f.fracBits) :=
  withSign_lt neg (expMax_shift_lt f)

/-- A NaN's fraction, free but for being nonzero, stays a fraction. -/
theorem nanOf_lt (hfrac : 1 ≤ f.fracBits) (v : Nat) : f.nanOf v < 2 ^ (1 + f.expBits + f.fracBits) := by
  have h := expMax_shift f
  have hone : 1 < 2 ^ f.fracBits := Nat.one_lt_two_pow (by omega)
  have hv : f.fracField v < 2 ^ f.fracBits := Nat.mod_lt _ (Nat.two_pow_pos _)
  refine withSign_lt _ ?_
  split <;> omega

/-- Rounding saturates at infinity. -/
theorem roundMagnitude_lt (m : Nat) : f.roundMagnitude m < 2 ^ (f.expBits + f.fracBits) :=
  Nat.lt_of_le_of_lt (Nat.min_le_right _ _) (expMax_shift_lt f)

theorem fmaFinite_lt (a b c : Nat) : f.fmaFinite a b c < 2 ^ (1 + f.expBits + f.fracBits) := by
  have hzero : 0 < 2 ^ (f.expBits + f.fracBits) := Nat.two_pow_pos _
  unfold FloatFormat.fmaFinite
  dsimp only
  split
  · split
    · exact withSign_lt _ hzero
    · exact withSign_lt _ (roundMagnitude_lt _)
  split
  · exact withSign_lt _ (roundMagnitude_lt _)
  split
  · exact withSign_lt _ (roundMagnitude_lt _)
  · exact withSign_lt _ hzero

/-- Every result of the IEEE step is a NaN, an infinity or a finite pattern of the format. -/
theorem fma_lt (hfrac : 1 ≤ f.fracBits) (nan a b c : Nat) :
    f.fma nan a b c < 2 ^ (1 + f.expBits + f.fracBits) := by
  unfold FloatFormat.fma
  split
  · exact nanOf_lt hfrac nan
  split
  · exact nanOf_lt hfrac nan
  split
  · split
    · exact nanOf_lt hfrac nan
    · exact infinity_lt _
  split
  · exact infinity_lt _
  · exact fmaFinite_lt a b c

end

theorem ieeeFma_binary16_lt (a b c : Elem) : (ieeeFma binary16 2 a b c).toNat < 2 ^ 16 := by
  rw [ieeeFma, BitVec.toNat_ofNat]
  exact Nat.lt_of_le_of_lt (Nat.mod_le _ _) (fma_lt (f := binary16) (by decide) _ _ _ _)

theorem narrowFma_lt (a b c : Elem) : (narrowFma a b c).toNat < 2 ^ 8 := by
  rw [narrowFma, BitVec.toNat_setWidth]
  exact Nat.lt_of_le_of_lt (Nat.mod_le _ _) (BitVec.isLt _)

theorem elemMask_lt (eb : Nat) (v : Elem) : (elemMask eb v).toNat < 2 ^ (8 * eb) := by
  rw [elemMask, BitVec.toNat_ofNat]
  exact Nat.lt_of_le_of_lt (Nat.mod_le _ _) (Nat.mod_lt _ (Nat.two_pow_pos _))

/-- Settles O41: binary16 by its format, binary32 by the width of an element pattern, the 8-bit rule by its
narrowing, any other record by the mask. -/
theorem fusedStepStaysInTheFormat : Obligations.FusedStepStaysInTheFormat := by
  unfold Obligations.FusedStepStaysInTheFormat
  intro p a b c heb
  unfold Params.fma
  split
  · split
    · next h => rw [h]; exact ieeeFma_binary16_lt a b c
    split
    · next h => rw [h]; exact BitVec.isLt _
    · next h2 h4 =>
      have h1 : p.eb = 1 := by omega
      rw [h1]
      exact narrowFma_lt a b c
  · exact elemMask_lt p.eb _

end Sys2Proof

/-! # What a step does to memory (20_memory R31, R34) -/

namespace Sys2Proof.Machine

/-- A property of memory that every strobed line write keeps. -/
def StoreClosed (Q : Memory → Prop) : Prop :=
  ∀ m addr strobe bytes, Q m → Q (Memory.writeBytes m addr strobe bytes)

/-- The property of memory holds wherever the operation ends; it may be refused. -/
abbrev KeepsMemory {α : Type} (Q : Memory → Prop) (r : Res α) : Prop :=
  r.Ends (fun _ t => Q t.mem) (fun t => Q t.mem) True

/-- The operations with which a line can be stored: those that may run a step of the Z stream (41_stride_generator
R85). -/
def MayStore (s : State) (i : Instr) : Prop :=
  i = .stepZ ∨ i = .fsmStoring ∨ (i = .schedInvoke ∧ s.sch.state = stStoring) ∨
    ∃ sl strobe, i = .sgIterate .z (some sl) strobe

theorem raiseFatal_mem (f : Fatal) (s : State) : (raiseFatal f s).mem = s.mem := by
  obtain ⟨v, hv⟩ := raiseFatal_eq f s
  rw [hv, State.setFault_mem]

section
variable {Q : Memory → Prop} {s : State}

theorem keepsMemory_raise {α : Type} (f : Fatal) (h : Q s.mem) :
    KeepsMemory Q (.fatal (raiseFatal f s) : Res α) := by
  rwa [KeepsMemory, Res.ends_fatal, raiseFatal_mem]

/-! ## The stream steps -/

theorem readTransaction_keepsMemory (str : Stream) (slot : Slot) (h : Q s.mem) :
    KeepsMemory Q (readTransaction str slot s) := by
  unfold readTransaction
  split
  · next l s1 hn =>
    obtain ⟨-, -, -, hm, -⟩ := nextAnswer_frame hn
    rwa [← hm] at h
  · next c l s1 hn =>
    obtain ⟨-, -, -, hm, -⟩ := nextAnswer_frame hn
    rw [← hm] at h
    exact keepsMemory_raise _ h

theorem writeTransaction_keepsMemory (hQ : StoreClosed Q) (str : Stream) (line : List TileElem)
    (strobe : Nat) (h : Q s.mem) : KeepsMemory Q (writeTransaction str line strobe s) := by
  unfold writeTransaction
  split
  · next l s1 hn =>
    obtain ⟨-, -, -, hm, -⟩ := nextAnswer_frame hn
    rw [← hm] at h
    exact hQ _ _ _ _ h
  · next c l s1 hn =>
    obtain ⟨-, -, -, hm, -⟩ := nextAnswer_frame hn
    rw [← hm] at h
    exact keepsMemory_raise (s := s1.setMem _) _ (hQ _ _ _ _ h)

/-- Z alone writes memory, and that with a slot (R85, R88). -/
theorem iterate_keepsMemory (str : Stream) (slot : Option Slot) (strobe : Nat)
    (hw : str = .z → slot ≠ none → StoreClosed Q) (h : Q s.mem) :
    KeepsMemory Q (iterate str slot strobe s) := by
  unfold iterate
  split
  · exact h
  split
  · trivial
  split
  · trivial
  cases str with
  | x => exact readTransaction_keepsMemory _ _ h
  | w => exact readTransaction_keepsMemory _ _ h
  | y => exact readTransaction_keepsMemory _ _ h
  | z => exact writeTransaction_keepsMemory (hw rfl (by simp)) _ _ _ h

theorem NextSlotFrame.keepsMemory {next : State → Res Slot} (hf : NextSlotFrame next)
    (hn : ∀ s t, next s ≠ .fatal t) (h : Q s.mem) : KeepsMemory Q (next s) := by
  refine Res.ends_iff.2 ⟨fun sl t ht => ?_, fun t ht => absurd ht (hn s t), fun _ _ => trivial⟩
  obtain ⟨ts, rfl⟩ := hf ht
  exact h

theorem gated_keepsMemory {next : State → Res Slot} (hf : NextSlotFrame next)
    (hn : ∀ s t, next s ≠ .fatal t) (str : Stream) (strobe : Nat) (hw : str = .z → StoreClosed Q)
    (h : Q s.mem) : KeepsMemory Q (gated str strobe next s) := by
  unfold gated
  split
  · exact iterate_keepsMemory str none strobe (fun hz _ => hw hz) h
  · exact (hf.keepsMemory hn h).bind fun sl t ht =>
      iterate_keepsMemory str (some sl) strobe (fun hz _ => hw hz) ht

theorem doStep_keepsMemory (sel : BitVec 3) (hw : sel = selZ → StoreClosed Q) (h : Q s.mem) :
    KeepsMemory Q (doStep sel s) := by
  unfold doStep
  split
  · exact h
  split
  · exact gated_keepsMemory nextW_frame nextW_ne_fatal _ _ (by simp) h
  split
  · exact gated_keepsMemory nextX_frame nextX_ne_fatal _ _ (by simp) h
  split
  · exact gated_keepsMemory nextY_frame nextY_ne_fatal _ _ (by simp) h
  split
  · next hz => exact gated_keepsMemory nextZ_frame nextZ_ne_fatal _ _ (fun _ => hw hz) h
  · exact keepsMemory_raise _ h

/-! ## The scheduler's operations -/

theorem computeZ_keepsMemory (h : Q s.mem) : KeepsMemory Q (computeZ s) := by
  unfold computeZ
  split
  · exact h
  · trivial
  · trivial

theorem storeBookkeeping_keepsMemory (h : Q s.mem) : KeepsMemory Q (storeBookkeeping s) := by
  unfold storeBookkeeping
  split
  · trivial
  split
  · trivial
  · exact h

theorem endComputing_keepsMemory (h : Q s.mem) : KeepsMemory Q (endComputing s) := by
  unfold endComputing
  split
  · trivial
  split
  · exact (computeZ_keepsMemory h).bind fun _ _ h1 =>
      (storeBookkeeping_keepsMemory h1).bind fun _ _ h2 => h2
  · exact h

theorem endStoring_keepsMemory (h : Q s.mem) : KeepsMemory Q (endStoring s) := by
  unfold endStoring
  split <;> exact h

theorem microStarting_keepsMemory (h : Q s.mem) : KeepsMemory Q (microStarting s) := by
  refine (doStep_keepsMemory _ (fun hz => ?_) h).bind fun _ _ h1 => h1
  split at hz <;> simp at hz

theorem microPhase_keepsMemory (sel : BitVec 3) (hw : sel = selZ → StoreClosed Q) {e : State → Res Unit}
    (he : ∀ {s}, Q s.mem → KeepsMemory Q (e s)) (h : Q s.mem) : KeepsMemory Q (microPhase sel e s) := by
  refine (doStep_keepsMemory sel hw h).bind fun lat s1 h1 => Res.Ends.bind ?_ fun _ _ h2 => h2
  rcases nextPosition_cases e s1 with ⟨-, hn⟩ | ⟨-, -, hn⟩ | ⟨-, -, hn⟩ <;> rw [hn]
  · exact h1
  · exact h1
  · exact he h1

/-- COMPUTING has no Z step (43_scheduler R123). -/
theorem select_payloadComputing_ne_selZ (p : Params) (hyper : Word) (cyc sub : Nat) :
    select p (payloadComputing p hyper cyc) sub ≠ selZ := by
  unfold select payloadComputing
  split
  · decide
  split
  · split <;> decide
  · decide

theorem microComputing_keepsMemory (h : Q s.mem) : KeepsMemory Q (microComputing s) :=
  microPhase_keepsMemory _ (fun hz => (select_payloadComputing_ne_selZ _ _ _ _ hz).elim)
    endComputing_keepsMemory h

theorem microStoring_keepsMemory (hQ : StoreClosed Q) (h : Q s.mem) : KeepsMemory Q (microStoring s) :=
  microPhase_keepsMemory _ (fun _ => hQ) endStoring_keepsMemory h

theorem microStep_keepsMemory (hw : s.sch.state = stStoring → StoreClosed Q) (h : Q s.mem) :
    KeepsMemory Q (microStep s) := by
  unfold microStep
  split
  · exact microStarting_keepsMemory h
  split
  · exact microComputing_keepsMemory h
  split
  · next hs => exact microStoring_keepsMemory (hw hs) h
  · exact keepsMemory_raise _ h

theorem scheduleNext_keepsMemory (h : Q s.mem) : KeepsMemory Q (scheduleNext s) := by
  unfold scheduleNext scheduleCompletion scheduleMain
  split <;> split
  · exact keepsMemory_raise _ h
  · exact h
  · exact keepsMemory_raise _ h
  · exact h

theorem invoke_keepsMemory (hw : s.sch.state = stStoring → StoreClosed Q) (h : Q s.mem) :
    KeepsMemory Q (invoke s) :=
  (microStep_keepsMemory (s := beginInvocation s) hw h).bind fun _ _ h1 => scheduleNext_keepsMemory h1

theorem completeIfPending_mem (s : State) : (completeIfPending s).mem = s.mem := by
  unfold completeIfPending
  split <;> rfl

/-! ## The host's operations -/

theorem entry_keepsMemory (h : Q s.mem) : KeepsMemory Q (entry s) := by
  unfold entry
  split
  · exact h
  · trivial

theorem trigger_keepsMemory (h : Q s.mem) : KeepsMemory Q (trigger s) := by
  unfold trigger
  split
  · exact keepsMemory_raise _ h
  split
  · exact keepsMemory_raise _ h
  · exact entry_keepsMemory h

theorem cfgWrite_keepsMemory {r : CfgReg} {v : Word} (h : Q s.mem) :
    StepEnds (fun t => Q t.mem) True (cfgWrite r v s) := by
  refine stepEnds_unlessStopped h fun _ => ?_
  split
  · exact h
  · rwa [stepEnds_next, raiseFatal_mem]

/-! ## Every step -/

theorem finish_keepsMemory {α : Type} {r : Res α} {f : α → Result} (h : Q s.mem) (hr : KeepsMemory Q r) :
    StepEnds (fun t => Q t.mem) True (unlessStopped s (finish r f)) :=
  stepEnds_unlessStopped h fun _ => stepEnds_finish hr

theorem finishUnit_keepsMemory {r : Res Unit} (h : Q s.mem) (hr : KeepsMemory Q r) :
    StepEnds (fun t => Q t.mem) True (unlessStopped s (finishUnit r)) :=
  stepEnds_unlessStopped h fun _ => stepEnds_finishUnit hr

/-- An operation keeps every property of memory that line writes keep, and one that stores no line keeps every
property; the cases not listed are the 39 writes of JobConfig registers. -/
theorem exec_keepsMemory (i : Instr) (hw : MayStore s i → StoreClosed Q) (h : Q s.mem) :
    StepEnds (fun t => Q t.mem) True (exec i s) := by
  unfold MayStore at hw
  cases i with
  | trigger _ => exact finishUnit_keepsMemory h (trigger_keepsMemory h)
  | irqclr _ => exact stepEnds_unlessStopped h fun _ => h
  | fsmIdle => exact stepEnds_unlessStopped h fun _ => h
  | fsmStarting => exact finish_keepsMemory h (microStarting_keepsMemory h)
  | fsmComputing => exact finish_keepsMemory h (microComputing_keepsMemory h)
  | fsmStoring => exact finish_keepsMemory h (microStoring_keepsMemory (hw (by simp)) h)
  | fsmFinished =>
    exact stepEnds_unlessStopped h fun _ => by rwa [stepEnds_next, completeIfPending_mem]
  | stepNone => exact stepEnds_unlessStopped h fun _ => h
  | stepW => exact finish_keepsMemory h (gated_keepsMemory nextW_frame nextW_ne_fatal _ _ (by simp) h)
  | stepX => exact finish_keepsMemory h (gated_keepsMemory nextX_frame nextX_ne_fatal _ _ (by simp) h)
  | stepY => exact finish_keepsMemory h (gated_keepsMemory nextY_frame nextY_ne_fatal _ _ (by simp) h)
  | stepZ =>
    exact finish_keepsMemory h (gated_keepsMemory nextZ_frame nextZ_ne_fatal _ _ (fun _ => hw (by simp)) h)
  | sgConfigure => exact stepEnds_unlessStopped h fun _ => h
  | sgIterate str slot strobe =>
    refine finish_keepsMemory h (iterate_keepsMemory str slot strobe (fun hz hs => hw ?_) h)
    obtain ⟨sl, rfl⟩ := Option.ne_none_iff_exists'.1 hs
    simp [hz]
  | sgIsdone _ => exact stepEnds_unlessStopped h fun _ => h
  | tsAlloc => exact stepEnds_unlessStopped h fun _ => h
  | tsNextw => exact finish_keepsMemory h (nextW_frame.keepsMemory nextW_ne_fatal h)
  | tsNextx => exact finish_keepsMemory h (nextX_frame.keepsMemory nextX_ne_fatal h)
  | tsNexty => exact finish_keepsMemory h (nextY_frame.keepsMemory nextY_ne_fatal h)
  | tsNextz => exact finish_keepsMemory h (nextZ_frame.keepsMemory nextZ_ne_fatal h)
  | tsComputez => exact finishUnit_keepsMemory h (computeZ_keepsMemory h)
  | tsFree => exact stepEnds_unlessStopped h fun _ => h
  | mkstrobe count width =>
    refine finish_keepsMemory h ?_
    unfold strobeOf
    split
    · exact h
    · trivial
  | schedEntry => exact finishUnit_keepsMemory h (entry_keepsMemory h)
  | schedInvoke =>
    refine stepEnds_unlessStopped h fun _ => ?_
    split
    · exact stepEnds_finishUnit (invoke_keepsMemory (fun hs => hw (by simp [hs])) h)
    · exact h
  | schedComplete =>
    exact stepEnds_unlessStopped h fun _ => by rwa [stepEnds_next, completeIfPending_mem]
  | _ => exact cfgWrite_keepsMemory h

theorem undecodable_keepsMemory (e : DecodeError) (h : Q s.mem) :
    ActionEnds (fun t => Q t.mem) True (undecodable e s) := by
  have raise : ∀ f, Q (raiseFatal f s).mem := fun f => by rwa [raiseFatal_mem]
  cases e with
  | badOffset o => exact raise _
  | badState c => exact raise _
  | badSelector c => exact raise _
  | notUnit => trivial

theorem ownAction_keepsMemory (hQ : StoreClosed Q) (h : Q s.mem) :
    ActionEnds (fun t => Q t.mem) True (ownAction s) := by
  unfold ownAction
  split
  · trivial
  split
  · exact exec_keepsMemory _ (fun _ => hQ) h
  split
  · exact exec_keepsMemory _ (fun _ => hQ) h
  · exact h

/-- A step keeps what line writes and another master's writes of single bytes keep (R44). -/
theorem nextAction_keepsMemory (hQ : StoreClosed Q)
    (hbyte : ∀ m (a : Word) v, Q m → Q (Memory.write m a.toNat v)) (h : Q s.mem) :
    ActionEnds (fun t => Q t.mem) True (nextAction s) := by
  unfold nextAction
  split
  · exact ownAction_keepsMemory hQ h
  · exact h
  · exact hbyte _ _ _ h
  · next w rest _ =>
    unfold presentWord
    split
    · exact exec_keepsMemory (s := s.setInbox rest) _ (fun _ => hQ) h
    · exact undecodable_keepsMemory (s := s.setInbox rest) _ h

end

/-- Settles O31: memory changes by line writes and by another master's writes of single bytes, and both keep the
form. -/
theorem stepKeepsMemoryCanonical : Obligations.StepKeepsMemoryCanonical := by
  unfold Obligations.StepKeepsMemoryCanonical
  intro s t h ht
  have hline : StoreClosed Memory.wf := Memory.writeBytes_wf
  have hbyte : ∀ m (a : Word) v, Memory.wf m → Memory.wf (Memory.write m a.toNat v) :=
    fun m a v hm => Memory.write_wf m _ v hm a.isLt
  exact (stepEnds_step (nextAction_keepsMemory hline hbyte h)).of_next ht

end Sys2Proof.Machine

/-! # A strobed line write, byte by byte (20_memory R34, 44_strobe R143, R146) -/

namespace Sys2Proof.Machine

/-- The bytes of a line are at different addresses, as long as the line does not wrap onto itself. -/
theorem byteAddr_ne (addr : Word) {q q' : Nat} (h : q < q') (hq' : q' < 2 ^ 32) :
    byteAddr addr q ≠ byteAddr addr q' := by
  have := addr.isLt
  rw [byteAddr_eq, byteAddr_eq]
  omega

theorem Memory.read_writeFrom_same (addr : Word) (strobe : Nat) (bytes : List (Option Byte)) :
    ∀ (m : Memory) (q : Nat), Memory.wf m → q + bytes.length ≤ 2 ^ 32 →
      ∀ k (h : k < bytes.length), strobe.testBit (q + k) = true →
        Memory.read (Memory.writeFrom m addr strobe q bytes) (byteAddr addr (q + k)) = bytes[k] := by
  induction bytes with
  | nil => intro m q _ _ k h; simp at h
  | cons b bs ih =>
    intro m q hm hlen k hk ht
    simp only [List.length_cons] at hlen hk
    cases k with
    | zero =>
      have hlater : ∀ k < bs.length, strobe.testBit (q + 1 + k) = true →
          byteAddr addr q ≠ byteAddr addr (q + 1 + k) :=
        fun k hk _ => byteAddr_ne addr (by omega) (by omega)
      have hq : strobe.testBit q = true := ht
      rw [Memory.writeFrom, if_pos hq]
      exact (Memory.read_writeFrom_other addr strobe _ bs _ _ hlater).trans
        (Memory.read_write_same m _ b hm.1)
    | succ k =>
      have hm' : Memory.wf (if strobe.testBit q then Memory.write m (byteAddr addr q) b else m) := by
        split
        · exact Memory.write_wf m _ b hm (byteAddr_lt addr q)
        · exact hm
      have hshift : q + (k + 1) = q + 1 + k := by omega
      rw [hshift] at ht ⊢
      exact ih _ (q + 1) hm' (by omega) k (by omega) ht

/-- "If `strobe[q] = 1` the byte at `u32(addr + q)` becomes `b[q]`" (R34). -/
theorem Memory.read_writeBytes_same {m : Memory} (addr : Word) {strobe : Nat} {bytes : List (Option Byte)}
    (hm : Memory.wf m) (hlen : bytes.length ≤ 2 ^ 32) {q : Nat} (h : q < bytes.length)
    (ht : strobe.testBit q = true) :
    Memory.read (Memory.writeBytes m addr strobe bytes) (byteAddr addr q) = bytes[q] := by
  have := Memory.read_writeFrom_same addr strobe bytes m 0 hm (by omega) q h (by rwa [Nat.zero_add])
  rwa [Nat.zero_add] at this

/-- Settles O30: the enabled bytes are written at different addresses, the others not at all. -/
theorem strobedWriteTouchesEnabledBytesOnly : Obligations.StrobedWriteTouchesEnabledBytesOnly := by
  unfold Obligations.StrobedWriteTouchesEnabledBytesOnly
  intro m addr strobe bytes hm hlen
  simp only [← byteAddr_eq]
  exact ⟨fun q h ht => Memory.read_writeBytes_same addr hm hlen h ht,
    Memory.read_writeBytes_other m addr strobe bytes⟩

/-! ## The bytes of a line -/

@[simp] theorem elemBytes_length (eb : Nat) (e : TileElem) : (elemBytes eb e).length = eb := by
  simp [elemBytes]

@[simp] theorem lineToBytes_length (eb : Nat) (line : List TileElem) :
    (lineToBytes eb line).length = eb * line.length := by
  simp [lineToBytes, Nat.mul_comm]

/-- Byte `t` of element `k` is byte `k EB + t` of the line (20_memory R38, R39). -/
theorem lineToBytes_getElem? (eb : Nat) (row : List TileElem) {k t : Nat} (hk : k < row.length)
    (ht : t < eb) :
    (lineToBytes eb row)[k * eb + t]? = some ((row[k]?).join.map (fun v => v.extractLsb' (8 * t) 8)) := by
  induction row generalizing k with
  | nil => simp at hk
  | cons e row ih =>
    have happend : lineToBytes eb (e :: row) = elemBytes eb e ++ lineToBytes eb row := rfl
    rw [happend]
    cases k with
    | zero =>
      rw [Nat.zero_mul, Nat.zero_add, List.getElem?_append_left (by simpa using ht)]
      simp [elemBytes, ht]
    | succ k =>
      have hrest : (k + 1) * eb + t = eb + (k * eb + t) := by ring
      rw [hrest, List.getElem?_append_right (by simp), elemBytes_length, Nat.add_sub_cancel_left]
      exact ih (by simpa using hk)

/-! ## MKSTROBE -/

/-- The base mask of a width is that many ones (44_strobe R143). -/
theorem baseMask_eq {width : Nat} (h : width = 1 ∨ width = 2 ∨ width = 4) :
    baseMask width = some (2 ^ width - 1) := by
  rcases h with rfl | rfl | rfl <;> rfl

/-- So many copies of so many ones, side by side (R143, R145). -/
theorem orCopies_testBit (width count q : Nat) :
    (orCopies (2 ^ width - 1) width count).testBit q = decide (q < count * width) := by
  induction count with
  | zero => simp [orCopies]
  | succ t ih =>
    have hstep : (t + 1) * width = t * width + width := Nat.succ_mul t width
    rw [orCopies, Nat.testBit_or, ih, Nat.testBit_shiftLeft, Nat.testBit_two_pow_sub_one, hstep,
      ← Bool.decide_and, ← Bool.decide_or]
    exact decide_eq_decide.2 (by omega)

/-- A leftover strobe of fewer than `AW` elements is not cut by the line's `LB` bits (R145, R146). -/
theorem mkStrobe_testBit {p : Params} {count : Nat} (heb : p.eb = 1 ∨ p.eb = 2 ∨ p.eb = 4)
    (hc : count < p.aw) :
    ∃ m, mkStrobe p count p.eb = some m ∧ ∀ q, m.testBit q = decide (q < count * p.eb) := by
  have hle : count * p.eb ≤ p.lb := Nat.mul_le_mul_right p.eb (Nat.le_of_lt hc)
  refine ⟨orCopies (2 ^ p.eb - 1) p.eb count % 2 ^ p.lb, by simp [mkStrobe, baseMask_eq heb], fun q => ?_⟩
  rw [Nat.testBit_mod_two_pow, orCopies_testBit, ← Bool.decide_and]
  exact decide_eq_decide.2 (by omega)

/-- Settles O43: the enabled bytes are exactly those of elements `0..L-1`. -/
theorem strobeHasContiguousBits : Obligations.StrobeHasContiguousBits := by
  unfold Obligations.StrobeHasContiguousBits
  intro p count heb hc
  obtain ⟨m, hm, hbits⟩ := mkStrobe_testBit heb hc
  refine ⟨m, hm, hbits, fun mem addr row hwf hrow hlb => ?_⟩
  simp only [← byteAddr_eq]
  have hlen : (lineToBytes p.eb row).length = p.aw * p.eb := by
    rw [lineToBytes_length, hrow, Nat.mul_comm]
  refine ⟨fun k t hk ht => ?_, fun a ha => ?_⟩
  · have hbyte : k * p.eb + t < count * p.eb :=
      calc k * p.eb + t < (k + 1) * p.eb := by rw [Nat.succ_mul]; omega
        _ ≤ count * p.eb := Nat.mul_le_mul_right p.eb hk
    have hline : count * p.eb ≤ p.aw * p.eb := Nat.mul_le_mul_right p.eb (Nat.le_of_lt hc)
    have hq : k * p.eb + t < (lineToBytes p.eb row).length := by omega
    have helem := lineToBytes_getElem? p.eb row (k := k) (by omega) ht
    rw [Memory.read_writeBytes_same addr hwf (by omega) hq (by simp [hbits, hbyte])]
    exact (List.getElem?_eq_some_iff.1 helem).2
  · exact Memory.read_writeBytes_other mem addr m _ a fun q _ ht =>
      ha q (by simpa [hbits] using ht)

end Sys2Proof.Machine

/-! # The stream steps that make an access (41_stride_generator R87, R88, 43_scheduler R136 to R139) -/

namespace Sys2Proof.Machine

/-! ## The next slot of a stream -/

/-- The next-slot operation of a stream's step (R136 to R139). -/
def nextOf : Stream → State → Res Slot
  | .x => nextX
  | .w => nextW
  | .y => nextY
  | .z => nextZ

/-- The strobe of a stream's step (R136 to R139). -/
def stepStrobe (s : State) : Stream → Nat
  | .z => s.sch.zStrb
  | _ => s.par.full

theorem doStep_turnSel (str : Stream) (s : State) :
    doStep (turnSel (some str)) s = gated str (stepStrobe s str) (nextOf str) s := by
  cases str <;> rfl

/-- The next-slot operation of the stream hands out a slot and leaves a tile store, in which the slot holds a
line. -/
structure HandsOut (s : State) (str : Stream) (sl : Slot) (ts : TileStore) (line : List TileElem) : Prop where
  next : nextOf str s = .ok sl (s.setTs ts)
  line : ts.readSlot s.par sl = some line

section
variable {s : State}

theorem handsOut_w {b : TileBuf} (hb : s.ts.w = some b) (hc : s.ts.wCnt < b.length) :
    HandsOut s .w (.w s.ts.wCnt) { s.ts with wCnt := (s.ts.wCnt + 1) % b.length } b[s.ts.wCnt] := by
  have hcap : s.ts.wCap = b.length := by simp [TileStore.wCap, hb]
  refine ⟨?_, by simp [TileStore.readSlot, hb, hc]⟩
  simp only [nextOf, nextW, hcap]
  rw [if_neg (by omega)]

theorem handsOut_x {row : List TileElem} {b : TileBuf} (hb : s.ts.x = some (row :: b))
    (hr : row.length ≠ 0) (hi : s.ts.xI < (row :: b).length) :
    HandsOut s .x (.x s.ts.xI s.ts.xC)
      { s.ts with
        xI := if s.ts.xI + 1 = s.par.aw then 0 else s.ts.xI + 1
        xC := if s.ts.xI + 1 = s.par.aw then (s.ts.xC + s.par.aw) % row.length else s.ts.xC }
      ((List.range s.par.aw).map fun e => ringGet (row :: b)[s.ts.xI] (s.ts.xC + e)) := by
  have hcap : s.ts.xCap = row.length := by simp [TileStore.xCap, hb]
  refine ⟨?_, by simp only [TileStore.readSlot, hb, Option.bind_some, List.getElem?_eq_getElem hi,
    Option.map_some]⟩
  simp only [nextOf, nextX, hcap, if_neg hr]
  split <;> rfl

theorem handsOut_y (hi : s.ts.yOffs + s.ts.yCnt < s.ts.y.length) :
    HandsOut s .y (.y (s.ts.yOffs + s.ts.yCnt)) { s.ts with yCnt := (s.ts.yCnt + 1) % s.par.aw }
      s.ts.y[s.ts.yOffs + s.ts.yCnt] :=
  ⟨rfl, List.getElem?_eq_getElem hi⟩

theorem handsOut_z {line : List TileElem} (hl : s.ts.z[s.ts.zCnt]? = some line) :
    HandsOut s .z (.z s.ts.zCnt) { s.ts with zCnt := (s.ts.zCnt + 1) % s.par.aw } line :=
  ⟨rfl, hl⟩

/-- A stream step that is not a bubble is `SG.ITERATE` with the slot handed out (R133). -/
theorem doStep_of_handsOut {str : Stream} {sl : Slot} {ts : TileStore} {line : List TileElem}
    (hs : HandsOut s str sl ts line) (hd : (s.sg.desc str).doneCnt ≠ (s.sg.desc str).totLen) :
    doStep (turnSel (some str)) s = iterate str (some sl) (stepStrobe s str) (s.setTs ts) := by
  simp [doStep_turnSel, gated, isDone, hd, iterateNext, hs.next]

end

/-! ## The access that succeeds -/

section
variable {s s1 : State} {str : Stream} {sl : Slot} {strobe l : Nat} {line : List TileElem}

/-- The read form (R88; 20_memory R33). -/
theorem readTransaction_success (hn : nextAnswer s = (⟨.success, l⟩, s1)) :
    readTransaction str sl s = .ok (l + 1) { s with
      memAnswers := s1.memAnswers, memDraws := s1.memDraws
      ts := s.ts.writeSlot sl (bytesToLine s.par.aw s.par.eb
        ((List.range (s.par.aw * s.par.eb)).map
          fun q => Memory.read s.mem (((s.sg.desc str).addr.toNat + q) % 2 ^ 32)))
      sg := s.sg.setDesc str ((s.sg.desc str).afterStep l) } := by
  have hs1 := nextAnswer_eq hn
  simp only [readTransaction, hn, endTransaction, Memory.readBytes_eq]
  rw [hs1]
  rfl

/-- The write form (R88; 20_memory R34). -/
theorem writeTransaction_success (hn : nextAnswer s = (⟨.success, l⟩, s1)) :
    writeTransaction str line strobe s = .ok (l + 1) { s with
      memAnswers := s1.memAnswers, memDraws := s1.memDraws
      mem := Memory.writeBytes s.mem (s.sg.desc str).addr strobe (lineToBytes s.par.eb line)
      sg := s.sg.setDesc str ((s.sg.desc str).afterStep l) } := by
  have hs1 := nextAnswer_eq hn
  simp only [writeTransaction, hn, endTransaction]
  rw [hs1]
  rfl

/-- Z, not done, with a slot that exists, makes a write (R85, R88). -/
theorem iterate_write (strobe : Nat) (hd : isDone .z s = false) (hl : s.ts.readSlot s.par sl = some line) :
    iterate .z (some sl) strobe s = writeTransaction .z line strobe s := by
  simp [iterate, hd, hl]

/-- A load step: the line at the stream's address goes to the slot handed out (R136 to R138). -/
theorem exec_loadStep {ts : TileStore} (hf : s.fault = none) (hz : str ≠ .z) (hs : HandsOut s str sl ts line)
    (hd : (s.sg.desc str).doneCnt ≠ (s.sg.desc str).totLen) (hn : nextAnswer s = (⟨.success, l⟩, s1)) :
    exec (turnStep (some str)) s = .next { s with
      memAnswers := s1.memAnswers, memDraws := s1.memDraws
      ts := ts.writeSlot sl (bytesToLine s.par.aw s.par.eb
        ((List.range (s.par.aw * s.par.eb)).map
          fun q => Memory.read s.mem (((s.sg.desc str).addr.toNat + q) % 2 ^ 32)))
      sg := s.sg.setDesc str ((s.sg.desc str).afterStep l)
      result := .latency (l + 1) } := by
  have hn' : nextAnswer (s.setTs ts) = (⟨.success, l⟩, s1.setTs ts) := by rw [nextAnswer_setTs, hn]
  rw [exec_turnStep, unlessStopped_of_none s _ hf, doStep_of_handsOut hs hd,
    iterate_read (s := s.setTs ts) _ hz (by simp [isDone, hd]) hs.line, readTransaction_success hn']
  rfl

/-- Settles O45: the three next slots, each filled by a load step. -/
theorem loadStepsComplete : Obligations.LoadStepsComplete := by
  unfold Obligations.LoadStepsComplete
  intro s s1 l hf hn
  refine ⟨fun b hb hc hd => ?_, fun row b hb hr hi hd => ?_, fun hi hd => ?_⟩
  · refine (exec_loadStep (str := .w) hf (by simp) (handsOut_w hb hc) hd hn).trans ?_
    simp only [TileStore.writeSlot, hb, Option.map_some]
    rfl
  · refine (exec_loadStep (str := .x) hf (by simp) (handsOut_x hb hr hi) hd hn).trans ?_
    simp only [TileStore.writeSlot, hb, Option.map_some]
    rfl
  · exact exec_loadStep (str := .y) hf (by simp) (handsOut_y hi) hd hn

/-- Settles O46: the row handed out is written by a Z step, under `sch.z_strb`. -/
theorem storeStepCompletes : Obligations.StoreStepCompletes := by
  unfold Obligations.StoreStepCompletes
  intro s s1 l line hf hn hd hl
  have hs := handsOut_z hl
  have hd' : isDone .z (s.setTs { s.ts with zCnt := (s.ts.zCnt + 1) % s.par.aw }) = false := by
    simp [isDone, Streams.desc, hd]
  refine ⟨_, ?_, rfl, fun a ha => Memory.read_writeBytes_other _ _ _ _ a fun q hq ht => ?_⟩
  · change exec (turnStep (some .z)) s = _
    rw [exec_turnStep, unlessStopped_of_none s _ hf, doStep_of_handsOut hs hd,
      iterate_write _ hd' hs.line, writeTransaction_success (by rw [nextAnswer_setTs, hn])]
    rfl
  · rw [byteAddr_eq]
    exact ha q (by simpa using hq) ht

end

/-! ## The access that fails (60_exceptions R150) -/

/-- Memory after an access that was not reported successful: a store leaves the bytes its strobe enables without
value (93 U4; log entry 6), a load leaves everything. -/
def failedMem (s : State) (strobe : Nat) (line : List TileElem) : Stream → Memory
  | .z => Memory.writeBytes s.mem s.sg.z.addr strobe ((lineToBytes s.par.eb line).map fun _ => none)
  | _ => s.mem

/-- The state in which such an access leaves the block: `MEM_STATUS` with stream, address and status. -/
def failedAccess (s s1 : State) (str : Stream) (strobe : Nat) (line : List TileElem) (c : Nat) : State :=
  { s with
    memAnswers := s1.memAnswers, memDraws := s1.memDraws, mem := failedMem s strobe line str
    fault := some (.memStatus str (s.sg.desc str).addr (.other c)) }

theorem failedMem_of_ne_z (s : State) {str : Stream} (strobe : Nat) (line : List TileElem) (h : str ≠ .z) :
    failedMem s strobe line str = s.mem := by
  cases str with
  | z => exact absurd rfl h
  | x => rfl
  | w => rfl
  | y => rfl

/-- Every byte that the strobe does not enable is as it was. -/
theorem read_failedMem (s : State) (str : Stream) (strobe : Nat) (line : List TileElem) (a : Nat)
    (h : ∀ q, q < s.par.eb * line.length → strobe.testBit q = true →
      a ≠ ((s.sg.desc str).addr.toNat + q) % 2 ^ 32) :
    Memory.read (failedMem s strobe line str) a = Memory.read s.mem a := by
  by_cases hz : str = .z
  · subst hz
    refine Memory.read_writeBytes_other _ _ _ _ a fun q hq ht => ?_
    rw [byteAddr_eq]
    exact h q (by simpa using hq) ht
  · rw [failedMem_of_ne_z s strobe line hz]

section
variable {s s1 : State} {str : Stream} {sl : Slot} {strobe c l : Nat} {line : List TileElem}

theorem readTransaction_other (hf : s.fault = none) (hz : str ≠ .z)
    (hn : nextAnswer s = (⟨.other c, l⟩, s1)) :
    readTransaction str sl s = .fatal (failedAccess s s1 str strobe line c) := by
  obtain ⟨-, -, -, -, hf1⟩ := nextAnswer_frame hn
  have hs1 := nextAnswer_eq hn
  simp only [readTransaction, hn, raiseFatal_of_none _ _ (hf1.trans hf), failedAccess,
    failedMem_of_ne_z s strobe line hz]
  rw [hs1]
  rfl

theorem writeTransaction_other (hf : s.fault = none) (hn : nextAnswer s = (⟨.other c, l⟩, s1)) :
    writeTransaction .z line strobe s = .fatal (failedAccess s s1 .z strobe line c) := by
  obtain ⟨-, -, -, -, hf1⟩ := nextAnswer_frame hn
  have hs1 := nextAnswer_eq hn
  have hf2 : ∀ m, (s1.setMem m).fault = none := fun _ => hf1.trans hf
  simp only [writeTransaction, hn, raiseFatal_of_none _ _ (hf2 _)]
  rw [hs1]
  rfl

theorem iterate_other (hf : s.fault = none) (hd : (s.sg.desc str).doneCnt ≠ (s.sg.desc str).totLen)
    (hl : s.ts.readSlot s.par sl = some line) (hn : nextAnswer s = (⟨.other c, l⟩, s1)) :
    iterate str (some sl) strobe s = .fatal (failedAccess s s1 str strobe line c) := by
  have hd' : isDone str s = false := by simp [isDone, hd]
  by_cases hz : str = .z
  · subst hz
    rw [iterate_write strobe hd' hl, writeTransaction_other hf hn]
  · rw [iterate_read strobe hz hd' hl, readTransaction_other hf hz hn]

/-- A stream step raises `MEM_STATUS` after its next-slot operation (R136 to R139). -/
theorem doStep_other {ts : TileStore} (hf : s.fault = none) (hs : HandsOut s str sl ts line)
    (hd : (s.sg.desc str).doneCnt ≠ (s.sg.desc str).totLen) (hn : nextAnswer s = (⟨.other c, l⟩, s1)) :
    doStep (turnSel (some str)) s =
      .fatal (failedAccess (s.setTs ts) s1 str (stepStrobe s str) line c) := by
  have hn' : nextAnswer (s.setTs ts) = (⟨.other c, l⟩, s1.setTs ts) := by rw [nextAnswer_setTs, hn]
  rw [doStep_of_handsOut hs hd, iterate_other (s := s.setTs ts) hf hd hs.line hn']
  rfl

theorem exec_stepOther {ts : TileStore} (hf : s.fault = none) (hs : HandsOut s str sl ts line)
    (hd : (s.sg.desc str).doneCnt ≠ (s.sg.desc str).totLen) (hn : nextAnswer s = (⟨.other c, l⟩, s1)) :
    exec (turnStep (some str)) s =
      .next (failedAccess (s.setTs ts) s1 str (stepStrobe s str) line c) := by
  rw [exec_turnStep, unlessStopped_of_none s _ hf, doStep_other hf hs hd hn, finish_fatal]

end

/-- Settles O26: the transaction raises, by itself or after the next-slot operation of its stream step. -/
theorem badMemoryStatusIsFatal : Obligations.BadMemoryStatusIsFatal := by
  unfold Obligations.BadMemoryStatusIsFatal
  intro s s1 c l hf hn
  refine ⟨fun str sl strobe line addr hd hl haddr => ?_, fun b hb hc hd => ?_, fun row b hb hr hi hd => ?_,
    fun hi hd => ?_, fun line hl hd => ?_⟩
  · have haddr : addr = (s.sg.desc str).addr := haddr
    subst haddr
    refine ⟨_, ?_, failedMem_of_ne_z s strobe line, read_failedMem s str strobe line⟩
    simp only [exec, execSgIterate, unlessStopped_of_none s _ hf, iterate_other hf hd hl hn, finish_fatal]
    rfl
  · exact exec_stepOther (str := .w) hf (handsOut_w hb hc) hd hn
  · exact exec_stepOther (str := .x) hf (handsOut_x hb hr hi) hd hn
  · exact exec_stepOther (str := .y) hf (handsOut_y hi) hd hn
  · exact ⟨_, exec_stepOther (str := .z) hf (handsOut_z hl) hd hn, read_failedMem (s.setTs _) .z _ line⟩

end Sys2Proof.Machine

/-! # The invocation (43_scheduler R118, R119, R131) -/

namespace Sys2Proof.Machine

/-! ## A stream step whose access succeeds raises nothing -/

theorem Res.bind_eq_fatal {α β : Type} {r : Res α} {f : α → State → Res β} {t : State}
    (h : r.bind f = .fatal t) : r = .fatal t ∨ ∃ a s, r = .ok a s ∧ f a s = .fatal t := by
  cases r with
  | ok a s => exact Or.inr ⟨a, s, rfl, h⟩
  | fatal s => cases h; exact Or.inl rfl
  | refused why => cases h

theorem readTransaction_fatal_status {str : Stream} {sl : Slot} {s t : State}
    (h : readTransaction str sl s = .fatal t) : (nextAnswer s).1.status ≠ .success := by
  unfold readTransaction at h
  split at h
  · cases h
  · next hn => simp [hn]

theorem writeTransaction_fatal_status {str : Stream} {line : List TileElem} {strobe : Nat} {s t : State}
    (h : writeTransaction str line strobe s = .fatal t) : (nextAnswer s).1.status ≠ .success := by
  unfold writeTransaction at h
  split at h
  · cases h
  · next hn => simp [hn]

theorem iterate_fatal_status {str : Stream} {slot : Option Slot} {strobe : Nat} {s t : State}
    (h : iterate str slot strobe s = .fatal t) : (nextAnswer s).1.status ≠ .success := by
  unfold iterate at h
  split at h
  · cases h
  split at h
  · cases h
  split at h
  · cases h
  cases str with
  | x => exact readTransaction_fatal_status h
  | w => exact readTransaction_fatal_status h
  | y => exact readTransaction_fatal_status h
  | z => exact writeTransaction_fatal_status h

theorem nextOf_ne_fatal (str : Stream) (s t : State) : nextOf str s ≠ .fatal t := by
  cases str with
  | x => exact nextX_ne_fatal s t
  | w => exact nextW_ne_fatal s t
  | y => exact nextY_ne_fatal s t
  | z => exact nextZ_ne_fatal s t

theorem nextOf_frame (str : Stream) : NextSlotFrame (nextOf str) := by
  cases str with
  | x => exact nextX_frame
  | w => exact nextW_frame
  | y => exact nextY_frame
  | z => exact nextZ_frame

/-- The stream step of the next micro-step raises only where its access is not reported successful (R133). -/
theorem doStep_turn_ne_fatal {s : State} (ha : AccessSucceeds s) (t : State) :
    doStep (turnSel (turn s)) s ≠ .fatal t := by
  intro h
  cases ho : turn s with
  | none => rw [ho] at h; cases h
  | some str =>
    rw [ho, doStep_turnSel] at h
    unfold gated at h
    split at h
    · cases h
    next hd =>
    have hsucc : (nextAnswer s).1.status = .success := ha ⟨str, ho, by simpa [isDone] using hd⟩
    rcases Res.bind_eq_fatal h with h | ⟨sl, s1, h1, h2⟩
    · exact nextOf_ne_fatal str s t h
    · obtain ⟨ts, rfl⟩ := nextOf_frame str h1
      have hstatus := iterate_fatal_status h2
      rw [nextAnswer_setTs] at hstatus
      exact hstatus hsucc

/-! ## What a micro-step leaves for the invocation -/

/-- The latency accumulators, and the model's field for results, are as they were. -/
structure KeepsLatency (s t : State) : Prop where
  result : t.result = s.result
  latAcc : t.sch.latAcc = s.sch.latAcc
  latTotal : t.sch.latTotal = s.sch.latTotal

theorem KeepsLatency.trans {s t u : State} (h : KeepsLatency s t) (h' : KeepsLatency t u) : KeepsLatency s u :=
  ⟨h'.result.trans h.result, h'.latAcc.trans h.latAcc, h'.latTotal.trans h.latTotal⟩

theorem KeepsLatency.of_control {s t : State} (h : KeepsControl s t) : KeepsLatency s t := by
  obtain ⟨-, -, hsch, -, -, -, -, -, hresult⟩ := h
  exact ⟨hresult, by rw [hsch], by rw [hsch]⟩

section
variable {F : State → Prop}

theorem computeZ_keepsLatency (s : State) : (computeZ s).Ends (fun _ => KeepsLatency s) F True := by
  unfold computeZ
  split
  · exact ⟨rfl, rfl, rfl⟩
  · trivial
  · trivial

theorem bookkept_latency (p : Params) (j : Job) (m : Nat) (c : Sched) :
    (bookkept p j m c).latAcc = c.latAcc ∧ (bookkept p j m c).latTotal = c.latTotal := by
  unfold bookkept
  split
  · split <;> exact ⟨rfl, rfl⟩
  · exact ⟨rfl, rfl⟩

theorem storeBookkeeping_keepsLatency (s : State) :
    (storeBookkeeping s).Ends (fun _ => KeepsLatency s) F True := by
  unfold storeBookkeeping
  split
  · trivial
  split
  · trivial
  · next j _ _ m _ =>
    obtain ⟨hacc, htotal⟩ := bookkept_latency s.par j m s.sch
    exact ⟨rfl, hacc, htotal⟩

theorem endComputing_keepsLatency (s : State) :
    (endComputing s).Ends (fun _ => KeepsLatency s) F True := by
  unfold endComputing
  split
  · trivial
  split
  · refine (computeZ_keepsLatency s).bind fun _ s1 h1 =>
      (storeBookkeeping_keepsLatency s1).bind fun _ s2 h2 => ?_
    exact (h1.trans h2).trans ⟨rfl, rfl, rfl⟩
  · exact ⟨rfl, rfl, rfl⟩

theorem endStoring_keepsLatency (s : State) : (endStoring s).Ends (fun _ => KeepsLatency s) F True := by
  unfold endStoring
  split <;> exact ⟨rfl, rfl, rfl⟩

theorem doStep_keepsLatency {sel : BitVec 3} {s : State} (hd : ∀ t, doStep sel s = .fatal t → F t) :
    (doStep sel s).Ends (fun _ => KeepsLatency s) F True :=
  Res.ends_iff.2 ⟨fun _ _ ht => .of_control (doStep_frame ht).1, hd, fun _ _ => trivial⟩

theorem microPhase_keepsLatency {sel : BitVec 3} {e : State → Res Unit} {s : State}
    (hd : ∀ t, doStep sel s = .fatal t → F t)
    (he : ∀ s, (e s).Ends (fun _ => KeepsLatency s) F True) :
    (microPhase sel e s).Ends (fun _ => KeepsLatency s) F True := by
  refine (doStep_keepsLatency hd).bind fun lat s1 h1 => Res.Ends.bind ?_ fun _ _ h2 => h1.trans h2
  rcases nextPosition_cases e s1 with ⟨-, hn⟩ | ⟨-, -, hn⟩ | ⟨-, -, hn⟩ <;> rw [hn]
  · exact ⟨rfl, rfl, rfl⟩
  · exact ⟨rfl, rfl, rfl⟩
  · have h0 : KeepsLatency s1 (s1.setSch { s1.sch with sub := 0, cyc := 0 }) := ⟨rfl, rfl, rfl⟩
    exact (he _).imp (fun _ _ _ h2 => h0.trans h2) fun _ h2 => h2

/-- A micro-step raises where its stream step does, and leaves the latencies to the invocation (R118). -/
theorem microStep_keepsLatency {s : State} (hs : Running s.sch)
    (hd : ∀ t, doStep (turnSel (turn s)) s = .fatal t → F t) :
    (microStep s).Ends (fun _ => KeepsLatency s) F True := by
  rcases hs with hs | hs | hs
  · have hm : microStep s = microStarting s := by simp [microStep, hs]
    rw [hm, microStarting, turnSel_starting hs]
    refine (doStep_keepsLatency hd).bind fun lat t ht => ht.trans ⟨rfl, ?_, ?_⟩ <;>
      (simp only [State.setSch_sch, afterPreload]; split <;> rfl)
  · have hm : microStep s = microComputing s := by simp [microStep, hs]
    rw [hm, microComputing, turnSel_computing hs]
    exact microPhase_keepsLatency hd endComputing_keepsLatency
  · have hm : microStep s = microStoring s := by simp [microStep, hs]
    rw [hm, microStoring, turnSel_storing hs]
    exact microPhase_keepsLatency hd endStoring_keepsLatency

end

/-! ## The micro-step of a running job -/

/-- `microInstr` names the micro-step that the dispatch on `sch.state` runs (R119). -/
theorem exec_microInstr {s : State} (hf : s.fault = none) (hs : Running s.sch) :
    exec (microInstr s) s = finish (microStep s) .latency := by
  rcases hs with hs | hs | hs
  · have hi : microInstr s = .fsmStarting := by simp [microInstr, hs]
    simp [hi, exec, execFsmStarting, unlessStopped_of_none s _ hf, microStep, hs]
  · have hi : microInstr s = .fsmComputing := by simp [microInstr, hs]
    simp [hi, exec, execFsmComputing, unlessStopped_of_none s _ hf, microStep, hs]
  · have hi : microInstr s = .fsmStoring := by simp [microInstr, hs]
    simp [hi, exec, execFsmStoring, unlessStopped_of_none s _ hf, microStep, hs]

/-- Where its access, if it makes one, succeeds, the micro-step of a running job succeeds. -/
theorem microStep_succeeds {s : State} {j : Job} (h : ActiveInv s j) (hp : LegalParams s.par)
    (hs : Running s.sch) (ha : AccessSucceeds s) :
    ∃ lat t, microStep s = .ok lat t ∧ Continues s j t ∧ KeepsLatency s t := by
  have hends := microStep_ends h hp hs
  have hkeeps := microStep_keepsLatency (F := fun _ => False) hs fun t ht => doStep_turn_ne_fatal ha t ht
  cases hm : microStep s with
  | ok lat t =>
    rw [hm] at hends hkeeps
    exact ⟨lat, t, rfl, hends, hkeeps⟩
  | fatal t => rw [hm] at hkeeps; exact hkeeps.elim
  | refused why => rw [hm] at hends; exact hends.elim

/-! ## The slot of a running job's stream step -/

/-- A running job hands out a slot to every stream. -/
theorem handsOut_of_tilesInv {s : State} {j : Job} (h : TilesInv s.par j s.ts) (str : Stream) :
    ∃ sl ts line, HandsOut s str sl ts line := by
  have hends : (nextOf str s).Ends (SlotReady s j) (Raised s) False := by
    cases str with
    | x => exact nextX_ends h
    | w => exact nextW_ends h
    | y => exact nextY_ends h
    | z => exact nextZ_ends h
  cases hn : nextOf str s with
  | ok sl t =>
    rw [hn] at hends
    obtain ⟨⟨ts, rfl⟩, -, line, hl⟩ := hends
    exact ⟨sl, ts, line, hn, hl⟩
  | fatal t => exact absurd hn (nextOf_ne_fatal str s t)
  | refused why => rw [hn] at hends; exact hends.elim

@[simp] theorem beginInvocation_ts (s : State) : (beginInvocation s).ts = s.ts := rfl
@[simp] theorem beginInvocation_par (s : State) : (beginInvocation s).par = s.par := rfl
@[simp] theorem beginInvocation_setTs (s : State) (ts : TileStore) :
    beginInvocation (s.setTs ts) = (beginInvocation s).setTs ts := rfl

/-- The beginning of an invocation touches nothing that a next-slot operation reads or writes (R118). -/
theorem nextOf_beginInvocation (str : Stream) (s : State) :
    nextOf str (beginInvocation s) = (nextOf str s).bind fun sl t => .ok sl (beginInvocation t) := by
  cases str with
  | w => by_cases hc : s.ts.wCap = 0 <;> simp [nextOf, nextW, hc]
  | x =>
    by_cases hc : s.ts.xCap = 0 <;> by_cases hi : s.ts.xI + 1 = s.par.aw <;>
      simp [nextOf, nextX, hc, hi]
  | y => rfl
  | z => rfl

theorem HandsOut.beginInvocation {s : State} {str : Stream} {sl : Slot} {ts : TileStore}
    {line : List TileElem} (h : HandsOut s str sl ts line) :
    HandsOut (beginInvocation s) str sl ts line :=
  ⟨by rw [nextOf_beginInvocation, h.next]; rfl, h.line⟩

theorem nextAnswer_beginInvocation {s s1 : State} {a : MemAnswer} (h : nextAnswer s = (a, s1)) :
    nextAnswer (beginInvocation s) = (a, beginInvocation s1) := by
  rcases s with ⟨_, _, _, _, _, _, _, _, _, _, _, _, answers, _, _⟩
  cases answers <;> cases h <;> rfl

/-! ## One invocation -/

theorem scheduleNext_eq {s : State} (hm : s.mainPending = false) (hd : s.donePending = false) :
    scheduleNext s = .ok () { s with
      mainPending := decide (s.sch.state ≠ stFinished), donePending := decide (s.sch.state = stFinished) } := by
  obtain ⟨_, _, _, _, _, _, _, _, _, _, _, _, _, _, _⟩ := s
  subst hm hd
  unfold scheduleNext
  split
  · next hfin => rw [decide_eq_false (not_not.2 hfin), decide_eq_true hfin]; rfl
  · next hfin => rw [decide_eq_true hfin, decide_eq_false hfin]; rfl

/-- An enabled invocation (R118). -/
theorem exec_schedInvoke {s : State} (hf : s.fault = none) (hm : s.mainPending = true) :
    exec .schedInvoke s = finishUnit (invoke s) := by
  simp [exec, execSchedInvoke, unlessStopped_of_none s _ hf, hm]

/-- The successful micro-step is charged, and one continuation scheduled (R118, R131). -/
theorem invoke_of_microStep {s t : State} {lat : Nat} (hmicro : microStep (beginInvocation s) = .ok lat t)
    (hk : KeepsLatency (beginInvocation s) t) (hm : t.mainPending = false) (hd : t.donePending = false) :
    invoke s = .ok () { t with
      result := s.result
      sch := { t.sch with latAcc := lat, latTotal := s.sch.latTotal + lat }
      mainPending := decide (t.sch.state ≠ stFinished)
      donePending := decide (t.sch.state = stFinished) } := by
  obtain ⟨hresult, hacc, htotal⟩ := hk
  have hacc : t.sch.latAcc + lat = lat := by rw [hacc]; exact Nat.zero_add lat
  have htotal : t.sch.latTotal + lat = s.sch.latTotal + lat := by rw [htotal]; rfl
  have hresult : t.result = s.result := hresult
  have hsched := scheduleNext_eq (s := chargeLatency lat t) hm hd
  rw [invoke, hmicro, Res.bind_ok, hsched, ← hresult]
  simp only [chargeLatency, State.setSch, hacc, htotal]

/-- Settles O52: where the access succeeds, by the micro-step of a running job; where it fails, by the fatal
condition of the stream step, which the beginning of the invocation does not touch. -/
theorem invocationCompletes : Obligations.InvocationCompletes := by
  unfold Obligations.InvocationCompletes
  intro s ⟨hp, hrun⟩ hf hm
  have hrun := hrun hf
  have hs : Running s.sch := hrun.mainPending_iff.1 hm
  have hne : s.sch.state ≠ stIdle ∧ s.sch.state ≠ stFinished := by
    rcases hs with hs | hs | hs <;> simp [hs]
  have hdone : s.donePending = false := Bool.eq_false_iff.2 fun hd => hne.2 (hrun.donePending_iff.1 hd)
  obtain ⟨j, hact⟩ := hrun.active hne.1
  refine ⟨fun ha => ?_, fun str s1 c l hturn hd hn => ?_⟩
  · have hact0 : ActiveInv (beginInvocation s) j := { hact with }
    have ha0 : AccessSucceeds (beginInvocation s) := fun hacc => by
      rw [nextAnswer_beginInvocation rfl]
      exact ha hacc
    obtain ⟨lat, t, hmicro, ⟨-, -, hk⟩, hlat⟩ := microStep_succeeds hact0 hp hs ha0
    refine ⟨t.setResult (.latency lat), lat, ?_, rfl, microStep_latency_pos hmicro, hk.fault.trans hf, ?_⟩
    · exact (exec_microInstr (s := beginInvocation s) hf hs).trans (by rw [hmicro, finish_ok])
    · rw [exec_schedInvoke hf hm,
        invoke_of_microStep hmicro hlat hk.mainPending (hk.donePending.trans hdone), finishUnit_ok]
      rfl
  · obtain ⟨sl, ts, line, hslot⟩ := handsOut_of_tilesInv hact.tiles str
    have hstep := doStep_other hf hslot hd hn
    have hstep0 := doStep_other (s := beginInvocation s) hf hslot.beginInvocation hd
      (nextAnswer_beginInvocation hn)
    rw [← hturn] at hstep
    have hmicro0 : microStep (beginInvocation s) = _ :=
      (micro_fatal (s := beginInvocation s) hs (hturn ▸ hstep0)).1
    refine ⟨_, exec_stepOther hf hslot hd hn, rfl, rfl, hdone, (micro_fatal hs hstep).2 hf, ?_⟩
    rw [exec_schedInvoke hf hm, invoke, hmicro0]
    rfl

end Sys2Proof.Machine

/-! # Words and their operations (30_encoding R59 to R69) -/

namespace Sys2Proof.Machine

/-! ## The packed leftover word (R63) -/

@[simp] theorem leftoverWCol_packLeftover (a b c d : BitVec 8) : leftoverWCol (packLeftover a b c d) = d :=
  extract_low _ d

@[simp] theorem leftoverWRow_packLeftover (a b c d : BitVec 8) : leftoverWRow (packLeftover a b c d) = c := by
  rw [leftoverWRow, packLeftover, BitVec.extractLsb'_append_eq_of_le (by decide)]
  exact extract_low _ c

@[simp] theorem leftoverXCol_packLeftover (a b c d : BitVec 8) : leftoverXCol (packLeftover a b c d) = b := by
  rw [leftoverXCol, packLeftover, BitVec.extractLsb'_append_eq_of_le (by decide),
    BitVec.extractLsb'_append_eq_of_le (by decide)]
  exact extract_low a b

@[simp] theorem leftoverXRow_packLeftover (a b c d : BitVec 8) : leftoverXRow (packLeftover a b c d) = a := by
  rw [leftoverXRow, packLeftover, BitVec.extractLsb'_append_eq_of_le (by decide),
    BitVec.extractLsb'_append_eq_of_le (by decide)]
  exact extract_high a b

/-! ## The register map, read both ways (R14, R61, R66) -/

theorem streamIndex_of_streamAt {n : Nat} {str : Stream} (h : streamAt n = some str) :
    streamIndex str = n := by
  unfold streamAt at h
  split at h <;> cases h <;> rfl

theorem streamAt_eq_none_iff : ∀ {n : Nat}, streamAt n = none ↔ 3 < n
  | 0 | 1 | 2 | 3 => by decide
  | n + 4 => by simp [streamAt]

/-- A field of a stream's block is one word of it. -/
theorem streamFieldOffset_of_blockField {n : Nat} {f : StreamField} (h : blockField n = some f) (s : Nat) :
    streamFieldOffset s f = 0x40 + 0x20 * s + 4 * n := by
  unfold blockField at h
  split at h <;> cases h <;> rfl

theorem blockField_eq_none_iff : ∀ {n : Nat}, blockField n = none ↔ 6 < n
  | 0 | 1 | 2 | 3 | 4 | 5 | 6 => by decide
  | n + 7 => by simp [blockField]

theorem cfgOffset_of_headReg {n : Nat} {r : CfgReg} (h : headReg n = some r) :
    (cfgOffset r).toNat = 4 * n := by
  unfold headReg at h
  split at h <;> cases h <;> rfl

theorem headReg_eq_none_iff : ∀ {n : Nat}, headReg n = none ↔ 10 < n
  | 0 | 1 | 2 | 3 | 4 | 5 | 6 | 7 | 8 | 9 | 10 => by decide
  | n + 11 => by simp [headReg]

/-- A register stands at one offset only. -/
theorem cfgOffset_of_cfgRegAt {offset : BitVec 8} {r : CfgReg} (h : cfgRegAt offset = some r) :
    cfgOffset r = offset := by
  apply BitVec.eq_of_toNat_eq
  unfold cfgRegAt at h
  split at h
  · cases h
  split at h
  · rw [cfgOffset_of_headReg h]
    omega
  · split at h
    · next str f hstr hf =>
      cases h
      rw [cfgOffset, BitVec.toNat_ofNat, streamFieldOffset_of_blockField hf, streamIndex_of_streamAt hstr]
      omega
    · cases h

/-- No register stands at an unaligned offset, after the head's eleven words, at the last word of a block and
after the four blocks. -/
theorem cfgRegAt_eq_none_iff {offset : BitVec 8} :
    cfgRegAt offset = none ↔
      offset.toNat % 4 ≠ 0 ∨ 0x2C ≤ offset.toNat ∧ offset.toNat < 0x40 ∨
        0x40 ≤ offset.toNat ∧ offset.toNat / 4 % 8 = 7 ∨ 0xC0 ≤ offset.toNat := by
  have hparts : cfgRegAt offset = none ↔
      offset.toNat % 4 ≠ 0 ∨ offset.toNat < 0x40 ∧ headReg (offset.toNat / 4) = none ∨
        0x40 ≤ offset.toNat ∧
          (streamAt (offset.toNat / 0x20 - 2) = none ∨ blockField (offset.toNat / 4 % 8) = none) := by
    unfold cfgRegAt
    split
    · next halign => exact iff_of_true rfl (Or.inl halign)
    split
    · next halign hhead => simp [halign, hhead, Nat.not_le.2 hhead]
    · next halign hhead =>
      cases streamAt (offset.toNat / 0x20 - 2) <;> cases blockField (offset.toNat / 4 % 8) <;>
        simp [halign, hhead, Nat.not_lt.1 hhead]
  rw [hparts, headReg_eq_none_iff, streamAt_eq_none_iff, blockField_eq_none_iff]
  omega

/-! ## Decoding a word that was put together (R60, R65) -/

theorem decode_hcWord {offset : BitVec 8} {r : CfgReg} (h : cfgRegAt offset = some r) (v : Word) :
    decode (hcWord offset v) = .ok (cfgwrOf r v) := by
  simp [decode, hcWord, decodeHc, h]

theorem decode_trigger (d : Word) : decode (hcWord 0x2C d) = .ok (.trigger d) := by
  simp [decode, hcWord, decodeHc, cfgRegAt_eq_none_iff.2]

theorem decode_irqclr (d : Word) : decode (hcWord 0x30 d) = .ok (.irqclr d) := by
  simp [decode, hcWord, decodeHc, cfgRegAt_eq_none_iff.2]

/-- A host command: the two with a command offset, the three with packed fields, and the registers of the
streams. -/
theorem decode_encode_of_hc {i : Instr} (h : i.format = .hc) : decode (encode i) = .ok i := by
  cases i with
  | trigger d => exact decode_trigger d
  | irqclr d => exact decode_irqclr d
  | cfgwrWIter rows cols => exact (decode_hcWord rfl _).trans (by simp [cfgwrOf])
  | cfgwrXIter rows cols => exact (decode_hcWord rfl _).trans (by simp [cfgwrOf])
  | cfgwrLeftover a b c d => exact (decode_hcWord rfl _).trans (by simp [cfgwrOf])
  | _ => cases h <;> exact (decode_hcWord rfl _).trans rfl

/-- A `UNIT` operation is its own word (log entry 20). -/
theorem encode_of_unit {i : Instr} (h : i.format = .unit) : encode i = .unit i := by
  cases i <;> cases h <;> rfl

/-- Settles O1: by the format of the operation. -/
theorem decodeOfEncodeIsIdentity : Obligations.DecodeOfEncodeIsIdentity := by
  unfold Obligations.DecodeOfEncodeIsIdentity
  intro i
  cases h : i.format with
  | hc => exact decode_encode_of_hc h
  | st => cases i <;> cases h <;> rfl
  | sel => cases i <;> cases h <;> rfl
  | unit => rw [encode_of_unit h, decode, if_pos h]

/-! ## The word of what a word decodes to -/

theorem encode_cfgwrOf (r : CfgReg) (v : Word) : encode (cfgwrOf r v) = hcWord (cfgOffset r) v := by
  cases r with
  | stream str f => cases str <;> cases f <;> rfl
  | wIter => simp [cfgwrOf, encode, cfgOffset]
  | xIter => simp [cfgwrOf, encode, cfgOffset]
  | leftover => simp [cfgwrOf, encode, cfgOffset]

/-- A host-command word is its two fields (R60). -/
theorem hcWord_fields (word : BitVec 40) : hcWord (hcOffset word) (hcData word) = .hc word :=
  congrArg OpWord.hc (hcOffset_append_hcData word)

theorem encode_of_decodeHc {word : BitVec 40} {i : Instr} (h : decodeHc word = .ok i) :
    encode i = .hc word := by
  rw [← hcWord_fields word]
  unfold decodeHc at h
  split at h
  · next r hr =>
    cases h
    rw [encode_cfgwrOf, cfgOffset_of_cfgRegAt hr]
  split at h
  · next ho =>
    cases h
    rw [ho, encode]
  split at h
  · next ho =>
    cases h
    rw [ho, encode]
  · cases h

theorem encode_of_decodeSt {code : BitVec 3} {i : Instr} (h : decodeSt code = .ok i) :
    encode i = .st code := by
  unfold decodeSt at h
  split at h <;> cases h <;> exact congrArg OpWord.st (BitVec.eq_of_toNat_eq (Eq.symm ‹_›))

theorem encode_of_decodeSel {code : BitVec 3} {i : Instr} (h : decodeSel code = .ok i) :
    encode i = .sel code := by
  unfold decodeSel at h
  split at h <;> cases h <;> exact congrArg OpWord.sel (BitVec.eq_of_toNat_eq (Eq.symm ‹_›))

/-- Settles O2: by the format of the word. -/
theorem encodeOfDecodeIsIdentity : Obligations.EncodeOfDecodeIsIdentity := by
  unfold Obligations.EncodeOfDecodeIsIdentity
  intro w i h
  cases w with
  | hc word => exact encode_of_decodeHc h
  | st code => exact encode_of_decodeSt h
  | sel code => exact encode_of_decodeSel h
  | unit op =>
    rw [decode] at h
    split at h
    · next hu =>
      cases h
      exact encode_of_unit hu
    · cases h

/-- Settles O3: each word is decoded. -/
theorem wordsFromTheSpecDecode : Obligations.WordsFromTheSpecDecode := by
  unfold Obligations.WordsFromTheSpecDecode
  decide

/-! ## A step on a word (60_exceptions R161, R163) -/

theorem nextAction_of_word {s : State} {w : OpWord} {rest : List Input} (hi : s.inbox = .word w :: rest) :
    nextAction s = presentWord w (s.setInbox rest) := by
  simp [nextAction, hi]

/-- Settles O6: the word is taken from the queue, and what it decodes to is run. -/
theorem stepRunsTheDecodedWord : Obligations.StepRunsTheDecodedWord := by
  unfold Obligations.StepRunsTheDecodedWord
  intro s w rest i hi hd
  have hact : nextAction s = .run i (s.setInbox rest) := by
    simp [nextAction_of_word hi, presentWord, hd]
  rw [step, hact]
  rfl

/-! ## Reserved offsets (R66) -/

/-- An offset is reserved where no register and neither command stands. -/
theorem decode_badOffset_iff (word : BitVec 40) :
    decode (.hc word) = .error (.badOffset (hcOffset word)) ↔
      cfgRegAt (hcOffset word) = none ∧ hcOffset word ≠ 0x2C ∧ hcOffset word ≠ 0x30 := by
  rw [decode, decodeHc]
  split
  · next hr => simp [hr]
  split
  · next ho => simp [ho]
  split
  · next ho => simp [ho]
  · next hr htrigger hirqclr => exact iff_of_true rfl ⟨hr, htrigger, hirqclr⟩

/-- The step on a reserved offset takes the word and raises the fatal condition. -/
theorem step_of_badOffset {s : State} {w : OpWord} {rest : List Input} {offset : BitVec 8}
    (hi : s.inbox = .word w :: rest) (hd : decode w = .error (.badOffset offset)) :
    step s = .next (raiseFatal (.badOffset offset) (s.setInbox rest)) := by
  simp [step, nextAction_of_word hi, presentWord, hd, undecodable]

/-- Settles O4: the reserved offsets are those without a register, the two commands taken out. -/
theorem reservedOffsetsAreRefused : Obligations.ReservedOffsetsAreRefused := by
  unfold Obligations.ReservedOffsetsAreRefused
  refine ⟨fun word => ?_, fun s word rest hi hd => ⟨fun hf => ?_, fun hf => ?_⟩⟩
  · rw [decode_badOffset_iff, cfgRegAt_eq_none_iff]
    simp only [List.mem_cons, List.not_mem_nil, or_false, ← BitVec.toNat_inj, ne_eq, BitVec.reduceToNat]
    omega
  · rw [step_of_badOffset hi hd, raiseFatal_of_none _ (s.setInbox rest) hf]
    rfl
  · obtain ⟨f, hf⟩ := Option.ne_none_iff_exists'.1 hf
    rw [step_of_badOffset hi hd, raiseFatal_of_some _ f (s.setInbox rest) hf]
    rfl

end Sys2Proof.Machine

/-! # What each host command does (40_host_commands R77 to R83) -/

namespace Sys2Proof.Machine

/-! ## CFGWR (R77) -/

/-- In IDLE the register takes the written value. -/
theorem cfgWrite_of_idle {s : State} (hf : s.fault = none) (hidle : s.sch.state = stIdle) (r : CfgReg)
    (v : Word) : cfgWrite r v s = .next { s with cfg := s.cfg.setReg r (some v) } := by
  rw [cfgWrite, unlessStopped_of_none s _ hf, if_pos hidle]
  rfl

/-- Outside IDLE the write is refused with the register's offset (60_exceptions R147, R153). -/
theorem cfgWrite_of_busy {s : State} (hf : s.fault = none) (hbusy : s.sch.state ≠ stIdle) (r : CfgReg)
    (v : Word) : cfgWrite r v s = .next { s with fault := some (.cfgWhileBusy (cfgOffset r)) } := by
  rw [cfgWrite, unlessStopped_of_none s _ hf, if_neg hbusy, raiseFatal_of_none _ s hf]
  rfl

/-- A word at a register's offset decodes to the write of its data bits to that register (R60, R61). -/
theorem decode_hc_of_cfgRegAt {word : BitVec 40} {r : CfgReg} (hr : cfgRegAt (hcOffset word) = some r) :
    decode (.hc word) = .ok (cfgwrOf r (hcData word)) := by
  rw [← hcWord_fields word]
  exact decode_hcWord hr _

/-- Settles O14: the word decodes to the one write of its register, and the register stands at the word's
offset alone. -/
theorem cfgwrIsRuleR77 : Obligations.CfgwrIsRuleR77 := by
  unfold Obligations.CfgwrIsRuleR77
  intro s word r i hr hd hf
  obtain rfl : cfgwrOf r (hcData word) = i := Except.ok.inj ((decode_hc_of_cfgRegAt hr).symm.trans hd)
  rw [exec_cfgwrOf, ← cfgOffset_of_cfgRegAt hr]
  exact ⟨fun hidle => cfgWrite_of_idle hf hidle r _, fun hbusy => cfgWrite_of_busy hf hbusy r _⟩

/-- Settles O10: each of the eleven commands is the write of its register, the packed words put together. -/
theorem cfgwrHeadRegistersComplete : Obligations.CfgwrHeadRegistersComplete := by
  unfold Obligations.CfgwrHeadRegistersComplete
  intro s v rows cols a b c d hf hidle
  have write := cfgWrite_of_idle hf hidle
  have base := fun str => write (.stream str .base) v
  have totLen := fun str => write (.stream str .totLen) v
  exact ⟨base .x, base .w, base .y, base .z, totLen .x, totLen .w, totLen .y, totLen .z,
    write .wIter (packIter rows cols), write .xIter (packIter rows cols),
    write .leftover (packLeftover a b c d)⟩

/-- Settles O11: each command is the write of its register. -/
theorem cfgwrXAndWBlocksComplete : Obligations.CfgwrXAndWBlocksComplete := by
  unfold Obligations.CfgwrXAndWBlocksComplete
  intro s v hf hidle
  have x := fun f => cfgWrite_of_idle hf hidle (.stream .x f) v
  have w := fun f => cfgWrite_of_idle hf hidle (.stream .w f) v
  exact ⟨x .d0Len, x .d0Stride, x .d1Len, x .d1Stride, x .d2Len, x .d2Stride, x .d3Stride,
    w .d0Len, w .d0Stride, w .d1Len, w .d1Stride, w .d2Len, w .d2Stride, w .d3Stride⟩

/-- Settles O12: each command is the write of its register. -/
theorem cfgwrYAndZBlocksComplete : Obligations.CfgwrYAndZBlocksComplete := by
  unfold Obligations.CfgwrYAndZBlocksComplete
  intro s v hf hidle
  have y := fun f => cfgWrite_of_idle hf hidle (.stream .y f) v
  have z := fun f => cfgWrite_of_idle hf hidle (.stream .z f) v
  exact ⟨y .d0Len, y .d0Stride, y .d1Len, y .d1Stride, y .d2Len, y .d2Stride, y .d3Stride,
    z .d0Len, z .d0Stride, z .d1Len, z .d1Stride, z .d2Len, z .d2Stride, z .d3Stride⟩

/-! ## IRQCLR (R83) -/

/-- `IRQCLR` has no guard but the fault register. -/
theorem exec_irqclr {s : State} (hf : s.fault = none) (d : Word) :
    exec (.irqclr d) s = .next { s with irq := false } :=
  unlessStopped_of_none s _ hf

/-- Settles O18: the word by the decoder's own equation, the operation by `exec_irqclr`. -/
theorem irqclrLowersTheInterrupt : Obligations.IrqclrLowersTheInterrupt := by
  unfold Obligations.IrqclrLowersTheInterrupt
  intro s d hf
  exact ⟨decode_irqclr d, exec_irqclr hf d⟩

/-! ## TRIGGER and the check of a configuration (R78, R79) -/

/-- Settles O15: R79's four clauses are the check's four tests. -/
theorem configCheckIsRuleR79 : Obligations.ConfigCheckIsRuleR79 := cfgCheck_eq_none_iff

/-- The first of R79's clauses (a) to (d) that a configuration fails. -/
def FirstFailure (p : Params) (c : JobConfig) : ConfigCheck → Prop
  | .unwritten => ¬ CfgWritten c
  | .zeroCount => CfgWritten c ∧ ¬ CfgCounts c
  | .leftoverTooLarge => CfgWritten c ∧ CfgCounts c ∧ ¬ CfgLeftovers p c
  | .zeroLength => CfgWritten c ∧ CfgCounts c ∧ CfgLeftovers p c ∧ ¬ CfgLengths c

/-- A configuration that is not valid fails a clause first. -/
theorem exists_firstFailure {p : Params} {c : JobConfig} (h : ¬ CfgValid p c) :
    ∃ check, FirstFailure p c check := by
  by_cases hw : CfgWritten c
  · by_cases hc : CfgCounts c
    · by_cases hl : CfgLeftovers p c
      · exact ⟨.zeroLength, hw, hc, hl, fun hd => h ⟨hw, hc, hl, hd⟩⟩
      · exact ⟨.leftoverTooLarge, hw, hc, hl⟩
    · exact ⟨.zeroCount, hw, hc⟩
  · exact ⟨.unwritten, hw⟩

/-- The check runs its tests in the order of the clauses, so it answers the first failure. -/
theorem cfgCheck_of_firstFailure {p : Params} {c : JobConfig} {check : ConfigCheck}
    (h : FirstFailure p c check) : cfgCheck p c = some check := by
  cases check <;> simp only [FirstFailure, ← allWritten_iff, ← countsNonzero_iff, ← leftoversLegal_iff,
    ← allLengthsNonzero_iff] at h
  case unwritten => simp [cfgCheck, h]
  case zeroCount =>
    obtain ⟨hw, hc⟩ := h
    simp [cfgCheck, hw, hc]
  case leftoverTooLarge =>
    obtain ⟨hw, hc, hl⟩ := h
    simp [cfgCheck, hw, hc, hl]
  case zeroLength =>
    obtain ⟨hw, hc, hl, hd⟩ := h
    rw [cfgCheck, hw, hc, hl, Bool.eq_false_of_not_eq_true hd]
    rfl

theorem exec_trigger_of_busy {s : State} (hf : s.fault = none) (hbusy : s.sch.state ≠ stIdle) (d : Word) :
    exec (.trigger d) s = .next { s with fault := some (.triggerWhileBusy s.sch.state) } := by
  simp only [exec, execTrigger, unlessStopped_of_none s _ hf, trigger, if_pos hbusy,
    raiseFatal_of_none _ s hf, finishUnit_fatal]
  rfl

theorem exec_trigger_of_invalid {s : State} {check : ConfigCheck} (hf : s.fault = none)
    (hidle : s.sch.state = stIdle) (hcheck : cfgCheck s.par s.cfg = some check) (d : Word) :
    exec (.trigger d) s = .next { s with fault := some (.badConfig check) } := by
  simp only [exec, execTrigger, unlessStopped_of_none s _ hf, trigger, if_neg (not_not.2 hidle), hcheck,
    raiseFatal_of_none _ s hf, finishUnit_fatal]
  rfl

/-- Settles O17: the busy test comes first, then the check, which records the first failure; with a valid
configuration both operations run the entry action. -/
theorem triggerIsRuleR78 : Obligations.TriggerIsRuleR78 := by
  unfold Obligations.TriggerIsRuleR78
  intro s d hf
  refine ⟨fun hbusy => exec_trigger_of_busy hf hbusy d, fun hidle hinvalid => ?_, fun hidle hvalid => ?_⟩
  · obtain ⟨check, hfirst⟩ := exists_firstFailure hinvalid
    have hcheck := cfgCheck_of_firstFailure hfirst
    have recorded : ∀ k, check = k ↔ FirstFailure s.par s.cfg k := by
      refine fun k => ⟨fun hk => hk ▸ hfirst, fun hk => ?_⟩
      exact Option.some.inj (hcheck.symm.trans (cfgCheck_of_firstFailure hk))
    exact ⟨check, exec_trigger_of_invalid hf hidle hcheck d, recorded .unwritten, recorded .zeroCount,
      recorded .leftoverTooLarge, recorded .zeroLength⟩
  · rw [exec_entry (i := .trigger d) hf hvalid (Or.inl ⟨rfl, hidle⟩),
      exec_entry (i := .schedEntry) (d := d) hf hvalid (Or.inr rfl)]

/-! ## The contraction dimension (R81) -/

section
variable {p : Params} {xCols xColLo : Nat}

/-- The padding fills the last column tile. -/
theorem contractionDim_add_pad (hc : 1 ≤ xCols) (hl : xColLo < p.aw) :
    contractionDim p xCols xColLo + p.pad xColLo = xCols * p.aw := by
  obtain ⟨m, rfl⟩ := Nat.exists_eq_add_of_le' hc
  rw [contractionDim, Params.pad, Nat.add_sub_cancel, Nat.add_mul]
  split <;> omega

/-- The last column tile holds `x_col_lo` columns, or is full. -/
theorem contractionDim_mod (hl : xColLo < p.aw) : contractionDim p xCols xColLo % p.aw = xColLo := by
  rw [contractionDim, Nat.mul_add_mod_self_right]
  split
  · next h0 => rw [h0, Nat.mod_self]
  · exact Nat.mod_eq_of_lt hl

/-- There are as many hypercycles as X column tiles. -/
theorem ceilDivide_contractionDim (hc : 1 ≤ xCols) (hl : xColLo < p.aw) :
    ceilDivide (contractionDim p xCols xColLo) p.aw = xCols := by
  have htiles := contractionDim_add_pad hc hl
  have hpad : p.pad xColLo < p.aw := by
    unfold Params.pad
    split <;> omega
  apply Nat.div_eq_of_lt_le
  · omega
  · rw [Nat.add_mul]
    omega

end

/-- Legal parameters leave `n` uncut (log entry 28). -/
theorem latchedJob_n_toNat {p : Params} {c : JobConfig} (hp : LegalParams p) (hv : CfgValid p c) :
    (latchedJob p c).n.toNat =
      contractionDim p (latchedJob p c).xCols.toNat (latchedJob p c).xColLo.toNat := by
  obtain ⟨-, ⟨-, hxc, -⟩, ⟨-, hxl, -⟩, -⟩ := hv
  obtain ⟨-, hn⟩ := contractionDim_bounds hxc hxl
  have hcols : (iterCols (c.val .xIter)).toNat * p.aw ≤ 65535 * p.aw :=
    Nat.mul_le_mul_right _ (Nat.le_of_lt_succ (iterCols (c.val .xIter)).isLt)
  have hfits := hp.2
  exact Nat.mod_eq_of_lt (by omega)

/-- Settles O19: `n` is the contraction dimension, uncut, and that is the X column tiles less their padding. -/
theorem contractionDimensionMatchesTheTiles : Obligations.ContractionDimensionMatchesTheTiles := by
  unfold Obligations.ContractionDimensionMatchesTheTiles
  intro p c hp hv
  have hn := latchedJob_n_toNat hp hv
  obtain ⟨-, ⟨-, hxc, -⟩, ⟨-, hxl, -⟩, -⟩ := hv
  have hnh : (latchedJob p c).nh = ceilDivide (latchedJob p c).n.toNat p.aw := rfl
  rw [hnh, hn]
  refine ⟨?_, ceilDivide_contractionDim hxc hxl, contractionDim_mod hxl, contractionDim_add_pad hxc hxl⟩
  simp [contractionDim, BitVec.toNat_eq]

end Sys2Proof.Machine

/-! # The interrupt level (40_host_commands R83, 43_scheduler R132) -/

namespace Sys2Proof.Machine

/-! ## A stream step leaves the control state alone, also where it raises -/

theorem gated_fatal {str : Stream} {strobe : Nat} {next : State → Res Slot} {s t : State}
    (hf : NextSlotFrame next) (hn : ∀ s t, next s ≠ .fatal t) (h : gated str strobe next s = .fatal t) :
    KeepsControl s t := by
  unfold gated at h
  split at h
  · exact (iterate_fatal h).control
  · rcases Res.bind_eq_fatal h with h1 | ⟨sl, s1, h1, h2⟩
    · exact absurd h1 (hn s t)
    · obtain ⟨ts, rfl⟩ := hf h1
      exact (iterate_fatal h2).control

theorem doStep_fatal {sel : BitVec 3} {s t : State} (h : doStep sel s = .fatal t) : KeepsControl s t := by
  unfold doStep at h
  split at h
  · cases h
  split at h
  · exact gated_fatal nextW_frame nextW_ne_fatal h
  split at h
  · exact gated_fatal nextX_frame nextX_ne_fatal h
  split at h
  · exact gated_fatal nextY_frame nextY_ne_fatal h
  split at h
  · exact gated_fatal nextZ_frame nextZ_ne_fatal h
  · cases h
    exact (raised_raiseFatal _ s).control

/-! ## What leaves the level alone -/

/-- The interrupt level is `b` wherever the operation ends; it may be refused. -/
abbrev EndsWithIrq {α : Type} (b : Bool) (r : Res α) : Prop :=
  r.Ends (fun _ t => t.irq = b) (fun t => t.irq = b) True

section
variable {b : Bool} {s : State}

theorem KeepsControl.irq_eq {t : State} (hc : KeepsControl s t) (h : s.irq = b) : t.irq = b := by
  obtain ⟨-, -, -, hirq, -⟩ := hc
  exact hirq.trans h

theorem raiseFatal_irq (f : Fatal) (h : s.irq = b) : (raiseFatal f s).irq = b :=
  (raised_raiseFatal f s).control.irq_eq h

theorem iterate_irq (str : Stream) (slot : Option Slot) (strobe : Nat) (h : s.irq = b) :
    EndsWithIrq b (iterate str slot strobe s) :=
  Res.ends_iff.2 ⟨fun _ _ ht => (iterate_frame ht).1.irq_eq h,
    fun _ ht => (iterate_fatal ht).control.irq_eq h, fun _ _ => trivial⟩

theorem NextSlotFrame.irq {next : State → Res Slot} (hf : NextSlotFrame next)
    (hn : ∀ s t, next s ≠ .fatal t) (h : s.irq = b) : EndsWithIrq b (next s) := by
  refine Res.ends_iff.2 ⟨fun sl t ht => ?_, fun t ht => absurd ht (hn s t), fun _ _ => trivial⟩
  obtain ⟨ts, rfl⟩ := hf ht
  exact h

theorem doStep_irq (sel : BitVec 3) (h : s.irq = b) : EndsWithIrq b (doStep sel s) :=
  Res.ends_iff.2 ⟨fun _ _ ht => (doStep_frame ht).1.irq_eq h, fun _ ht => (doStep_fatal ht).irq_eq h,
    fun _ _ => trivial⟩

theorem computeZ_irq (h : s.irq = b) : EndsWithIrq b (computeZ s) := by
  unfold computeZ
  split
  · exact h
  · trivial
  · trivial

theorem storeBookkeeping_irq (h : s.irq = b) : EndsWithIrq b (storeBookkeeping s) := by
  unfold storeBookkeeping
  split
  · trivial
  split
  · trivial
  · exact h

theorem endComputing_irq (h : s.irq = b) : EndsWithIrq b (endComputing s) := by
  unfold endComputing
  split
  · trivial
  split
  · exact (computeZ_irq h).bind fun _ _ h1 => (storeBookkeeping_irq h1).bind fun _ _ h2 => h2
  · exact h

theorem endStoring_irq (h : s.irq = b) : EndsWithIrq b (endStoring s) := by
  unfold endStoring
  split <;> exact h

theorem microStarting_irq (h : s.irq = b) : EndsWithIrq b (microStarting s) :=
  (doStep_irq _ h).bind fun _ _ h1 => h1

theorem microPhase_irq (sel : BitVec 3) {e : State → Res Unit}
    (he : ∀ {s}, s.irq = b → EndsWithIrq b (e s)) (h : s.irq = b) : EndsWithIrq b (microPhase sel e s) := by
  refine (doStep_irq sel h).bind fun lat s1 h1 => Res.Ends.bind ?_ fun _ _ h2 => h2
  rcases nextPosition_cases e s1 with ⟨-, hn⟩ | ⟨-, -, hn⟩ | ⟨-, -, hn⟩ <;> rw [hn]
  · exact h1
  · exact h1
  · exact he h1

theorem microStep_irq (h : s.irq = b) : EndsWithIrq b (microStep s) := by
  unfold microStep
  split
  · exact microStarting_irq h
  split
  · exact microPhase_irq _ endComputing_irq h
  split
  · exact microPhase_irq _ endStoring_irq h
  · exact raiseFatal_irq _ h

theorem scheduleNext_irq (h : s.irq = b) : EndsWithIrq b (scheduleNext s) := by
  unfold scheduleNext scheduleCompletion scheduleMain
  split <;> split
  · exact raiseFatal_irq _ h
  · exact h
  · exact raiseFatal_irq _ h
  · exact h

theorem invoke_irq (h : s.irq = b) : EndsWithIrq b (invoke s) :=
  (microStep_irq (s := beginInvocation s) h).bind fun _ _ h1 => scheduleNext_irq h1

theorem entry_irq (h : s.irq = b) : EndsWithIrq b (entry s) := by
  unfold entry
  split
  · exact h
  · trivial

theorem trigger_irq (h : s.irq = b) : EndsWithIrq b (trigger s) := by
  unfold trigger
  split
  · exact raiseFatal_irq _ h
  split
  · exact raiseFatal_irq _ h
  · exact entry_irq h

theorem strobeOf_irq (count width : Nat) (h : s.irq = b) : EndsWithIrq b (strobeOf count width s) := by
  unfold strobeOf
  split
  · exact h
  · trivial

theorem cfgWrite_irq (r : CfgReg) (v : Word) (h : s.irq = b) :
    StepEnds (fun t => t.irq = b) True (cfgWrite r v s) := by
  refine stepEnds_unlessStopped h fun _ => ?_
  split
  · exact h
  · exact raiseFatal_irq _ h

theorem finish_irq {α : Type} {r : Res α} {f : α → Result} (h : s.irq = b) (hr : EndsWithIrq b r) :
    StepEnds (fun t => t.irq = b) True (unlessStopped s (finish r f)) :=
  stepEnds_unlessStopped h fun _ => stepEnds_finish hr

theorem finishUnit_irq {r : Res Unit} (h : s.irq = b) (hr : EndsWithIrq b r) :
    StepEnds (fun t => t.irq = b) True (unlessStopped s (finishUnit r)) :=
  stepEnds_unlessStopped h fun _ => stepEnds_finishUnit hr

/-- The operations that write the interrupt level: the completion, under both its names, and `IRQCLR`. -/
def WritesIrq (i : Instr) : Prop := i = .fsmFinished ∨ i = .schedComplete ∨ ∃ d, i = .irqclr d

/-- Every other operation leaves the level alone; the cases not listed are the 39 writes of JobConfig
registers. -/
theorem exec_irq {i : Instr} (hi : ¬ WritesIrq i) (h : s.irq = b) :
    StepEnds (fun t => t.irq = b) True (exec i s) := by
  unfold WritesIrq at hi
  cases i with
  | fsmFinished => simp at hi
  | schedComplete => simp at hi
  | irqclr d => simp at hi
  | trigger d => exact finishUnit_irq h (trigger_irq h)
  | fsmIdle => exact stepEnds_unlessStopped h fun _ => h
  | fsmStarting => exact finish_irq h (microStarting_irq h)
  | fsmComputing => exact finish_irq h (microPhase_irq _ endComputing_irq h)
  | fsmStoring => exact finish_irq h (microPhase_irq _ endStoring_irq h)
  | stepNone => exact stepEnds_unlessStopped h fun _ => h
  | stepW => exact finish_irq h (doStep_irq selW h)
  | stepX => exact finish_irq h (doStep_irq selX h)
  | stepY => exact finish_irq h (doStep_irq selY h)
  | stepZ => exact finish_irq h (doStep_irq selZ h)
  | sgConfigure => exact stepEnds_unlessStopped h fun _ => h
  | sgIterate str slot strobe => exact finish_irq h (iterate_irq str slot strobe h)
  | sgIsdone str => exact stepEnds_unlessStopped h fun _ => h
  | tsAlloc => exact stepEnds_unlessStopped h fun _ => h
  | tsNextw => exact finish_irq h (nextW_frame.irq nextW_ne_fatal h)
  | tsNextx => exact finish_irq h (nextX_frame.irq nextX_ne_fatal h)
  | tsNexty => exact finish_irq h (nextY_frame.irq nextY_ne_fatal h)
  | tsNextz => exact finish_irq h (nextZ_frame.irq nextZ_ne_fatal h)
  | tsComputez => exact finishUnit_irq h (computeZ_irq h)
  | tsFree => exact stepEnds_unlessStopped h fun _ => h
  | mkstrobe count width => exact finish_irq h (strobeOf_irq count width h)
  | schedEntry => exact finishUnit_irq h (entry_irq h)
  | schedInvoke =>
    refine stepEnds_unlessStopped h fun _ => ?_
    split
    · exact stepEnds_finishUnit (invoke_irq h)
    · exact h
  | _ => exact cfgWrite_irq _ _ h

end

/-! ## What writes it -/

/-- The completion raises the level where its continuation is pending, and else changes nothing (R132). -/
theorem completion_irq (s : State) :
    StepEnds (fun t => t.irq = s.irq ∨ t.irq = true ∧ s.donePending = true) True
      (unlessStopped s (.next (completeIfPending s))) := by
  refine stepEnds_unlessStopped (Or.inl rfl) fun _ => ?_
  unfold completeIfPending
  split
  · next hd => exact Or.inr ⟨rfl, hd⟩
  · exact Or.inl rfl

/-- Settles O54: three operations write the level, each in its own direction; reset leaves the initial state. -/
theorem interruptRisesAndFallsByRule : Obligations.InterruptRisesAndFallsByRule := by
  unfold Obligations.InterruptRisesAndFallsByRule
  refine ⟨fun i s t ht hne => ?_, fun s hf hd => ?_, fun s rest hi => ?_⟩
  · by_cases hi : WritesIrq i
    · rcases hi with rfl | rfl | ⟨d, rfl⟩
      · obtain ⟨hrise, hd⟩ := ((completion_irq s).of_next ht).resolve_left hne
        exact Or.inl ⟨hrise, Or.inl rfl, hd⟩
      · obtain ⟨hrise, hd⟩ := ((completion_irq s).of_next ht).resolve_left hne
        exact Or.inl ⟨hrise, Or.inr rfl, hd⟩
      · have hfall : StepEnds (fun t => t.irq = s.irq ∨ t.irq = false) True (exec (.irqclr d) s) :=
          stepEnds_unlessStopped (Or.inl rfl) fun _ => Or.inr rfl
        exact Or.inr ⟨(hfall.of_next ht).resolve_left hne, d, rfl⟩
    · exact absurd ((exec_irq hi rfl).of_next ht) hne
  · refine ⟨complete s, ?_, rfl⟩
    simp [exec, execSchedComplete, unlessStopped_of_none s _ hf, completeIfPending, hd]
  · exact ⟨_, resetInputResetsTheBlock s rest hi, rfl⟩

end Sys2Proof.Machine

/-! # The stride generator's operations by themselves (41_stride_generator R86, R88, R92, R94) -/

namespace Sys2Proof.Machine

section
variable {s : State} (hf : s.fault = none) (str : Stream)
include hf

theorem exec_sgConfigure (b n l0 t0 l1 t1 l2 t2 t3 : Word) :
    exec (.sgConfigure str b n l0 t0 l1 t1 l2 t2 t3) s =
      .next (s.setDesc str (configured b n l0 t0 l1 t1 l2 t2 t3)) :=
  unlessStopped_of_none s _ hf

theorem exec_sgIterate (slot : Option Slot) (strobe : Nat) :
    exec (.sgIterate str slot strobe) s = finish (iterate str slot strobe s) .latency :=
  unlessStopped_of_none s _ hf

theorem exec_sgIsdone : exec (.sgIsdone str) s = .next (s.setResult (.truth (isDone str s))) :=
  unlessStopped_of_none s _ hf

/-- The step of a stream that is done is a bubble, charged to that stream (43_scheduler R133). -/
theorem exec_bubbleStep (hd : (s.sg.desc str).doneCnt = (s.sg.desc str).totLen) :
    exec (turnStep (some str)) s =
      .next ((s.setDesc str (s.sg.desc str).afterBubble).setResult (.latency 1)) := by
  rw [exec_turnStep, unlessStopped_of_none s _ hf, doStep_turnSel]
  simp [gated, isDone, hd, iterate]

end

/-- Settles O22: the operation is one descriptor update. -/
theorem sgConfigureCompletes : Obligations.SgConfigureCompletes := by
  unfold Obligations.SgConfigureCompletes
  intro s str b n l0 t0 l1 t1 l2 t2 t3 hf
  exact exec_sgConfigure hf str b n l0 t0 l1 t1 l2 t2 t3

/-- Settles O23: without a slot `SG.ITERATE` is a bubble, and a fresh descriptor counts 0 transactions. -/
theorem sgBubbleAndIsdoneComplete : Obligations.SgBubbleAndIsdoneComplete := by
  unfold Obligations.SgBubbleAndIsdoneComplete
  intro s str hf
  refine ⟨exec_sgIterate hf str none, exec_sgIsdone hf str, fun b l0 t0 l1 t1 l2 t2 t3 t ht => ?_⟩
  rw [exec_sgConfigure hf] at ht
  obtain rfl := Host.Outcome.next.inj ht
  have hdone : isDone str (s.setDesc str (configured b 0 l0 t0 l1 t1 l2 t2 t3)) = true := by
    simp [isDone, configured, StreamDesc.zero]
  rw [exec_sgIsdone (by simpa using hf), hdone]
  rfl

/-- Settles O25: Z makes a write, and the memory's answer moves only the memory's answers. -/
theorem sgIterateWritesALine : Obligations.SgIterateWritesALine := by
  unfold Obligations.SgIterateWritesALine
  intro s s1 sl strobe l line hf hd hl hn
  have hnot : isDone .z s = false := by simp [isDone, hd]
  rw [exec_sgIterate hf, iterate_write strobe hnot hl, writeTransaction_success hn]
  rfl

/-- Settles O32: what stores no line keeps every property of memory, that of holding the bytes it held too. -/
theorem onlyZStepsWriteMemory : Obligations.OnlyZStepsWriteMemory := by
  unfold Obligations.OnlyZStepsWriteMemory
  intro i s t ht
  by_cases hi : MayStore s i
  · exact Or.inr hi
  · have hkeeps := exec_keepsMemory (Q := fun m => ∀ a, Memory.read m a = Memory.read s.mem a) i
      (fun h => absurd h hi) (fun _ => rfl)
    exact Or.inl (hkeeps.of_next ht)

/-- Settles O44: `STEP.NONE` touches nothing, and the four others are bubbles. -/
theorem bubbleStepsComplete : Obligations.BubbleStepsComplete := by
  unfold Obligations.BubbleStepsComplete
  intro s hf
  exact ⟨unlessStopped_of_none s _ hf, exec_bubbleStep hf .w, exec_bubbleStep hf .x, exec_bubbleStep hf .y,
    exec_bubbleStep hf .z⟩

end Sys2Proof.Machine

/-! # The course of a stream (41_stride_generator R87 to R90) -/

namespace Sys2Proof.Machine

/-! ## What a transaction does to its descriptor -/

/-- The descriptor as `SG.CONFIGURE` with the same nine parameters would leave it: equal for two descriptors
exactly where their configurations are. -/
def StreamDesc.reconfigured (d : StreamDesc) : StreamDesc :=
  configured d.base d.totLen d.d0Len d.d0Stride d.d1Len d.d1Stride d.d2Len d.d2Stride d.d3Stride

theorem advance_reconfigured (d : StreamDesc) : d.advance.reconfigured = d.reconfigured := by
  unfold StreamDesc.advance StreamDesc.advance1 StreamDesc.advance2
  split
  · split
    · split <;> rfl
    · rfl
  · rfl

section
variable {d : StreamDesc}

/-- The transaction that reaches `tot_len` (R88, R90). -/
theorem afterStep_of_last (l : Nat) (h : d.doneCnt + 1 = d.totLen) :
    d.afterStep l = { d.advance.restart with doneCnt := d.doneCnt + 1, latCum := d.latCum + l + 1 } := by
  have hlast : d.doneCnt + 1 = d.advance.totLen := h.trans (advance_doneCnt_totLen d).2.symm
  simp only [StreamDesc.afterStep, if_pos hlast]
  rfl

/-- A transaction before it (R88, R89). -/
theorem afterStep_of_not_last (l : Nat) (h : d.doneCnt + 1 ≠ d.totLen) :
    d.afterStep l = { d.advance with doneCnt := d.doneCnt + 1, latCum := d.latCum + l + 1 } := by
  have hmore : d.doneCnt + 1 ≠ d.advance.totLen := fun he => h (he.trans (advance_doneCnt_totLen d).2)
  simp only [StreamDesc.afterStep, if_neg hmore]

end

theorem afterStep_counts (d : StreamDesc) (l : Nat) :
    (d.afterStep l).doneCnt = d.doneCnt + 1 ∧ (d.afterStep l).latCum = d.latCum + l + 1 := by
  by_cases h : d.doneCnt + 1 = d.totLen
  · rw [afterStep_of_last l h]; exact ⟨rfl, rfl⟩
  · rw [afterStep_of_not_last l h]; exact ⟨rfl, rfl⟩

theorem afterStep_reconfigured (d : StreamDesc) (l : Nat) :
    (d.afterStep l).reconfigured = d.reconfigured := by
  by_cases h : d.doneCnt + 1 = d.totLen
  · rw [afterStep_of_last l h]; exact advance_reconfigured d
  · rw [afterStep_of_not_last l h]; exact advance_reconfigured d

/-- Settles O28: the carry chain keeps the configuration, and the last transaction restarts the positions. -/
theorem transactionCountsAndRestarts : Obligations.TransactionCountsAndRestarts := by
  unfold Obligations.TransactionCountsAndRestarts
  intro d l
  obtain ⟨hdone, hlat⟩ := afterStep_counts d l
  have hcfg := afterStep_reconfigured d l
  refine ⟨hdone, hlat, congrArg (·.base) hcfg, congrArg (·.totLen) hcfg, congrArg (·.d0Len) hcfg,
    congrArg (·.d1Len) hcfg, congrArg (·.d2Len) hcfg, congrArg (·.d0Stride) hcfg,
    congrArg (·.d1Stride) hcfg, congrArg (·.d2Stride) hcfg, congrArg (·.d3Stride) hcfg, fun h => ?_⟩
  rw [afterStep_of_last l h]
  exact ⟨rfl, rfl, rfl, rfl, rfl, rfl, rfl⟩

/-! ## The counters as digits of the transaction count -/

section
variable {len cnt : Word} {u : Nat}

/-- The digit that overflows: the count's remainder is 0 and its quotient one more. -/
theorem succ_of_wrap (hlen : len ≠ 0) (h : cnt.toNat = u % len.toNat) (hw : cnt + 1 = len) :
    (u + 1) % len.toNat = 0 ∧ (u + 1) / len.toNat = u / len.toNat + 1 := by
  have hsucc : u % len.toNat + 1 = len.toNat := by
    have hlt : u % len.toNat < len.toNat := Nat.mod_lt _ (by bv_omega)
    bv_omega
  have hdvd : len.toNat ∣ u + 1 := by
    refine ⟨u / len.toNat + 1, ?_⟩
    rw [Nat.mul_add_one]
    have := Nat.div_add_mod u len.toNat
    omega
  exact ⟨Nat.mod_eq_zero_of_dvd hdvd, Nat.succ_div_of_dvd hdvd⟩

/-- The digit that does not: the remainder goes up by one and the quotient stays. -/
theorem succ_of_no_wrap (hlen : len ≠ 0) (h : cnt.toNat = u % len.toNat) (hw : cnt + 1 ≠ len) :
    (cnt + 1).toNat = (u + 1) % len.toNat ∧ (u + 1) / len.toNat = u / len.toNat := by
  have hlt : u % len.toNat < len.toNat := Nat.mod_lt _ (by bv_omega)
  have hmore : u % len.toNat + 1 < len.toNat := by bv_omega
  have hu : u + 1 = (u % len.toNat + 1) + len.toNat * (u / len.toNat) := by
    have := Nat.mod_add_div u len.toNat
    omega
  have hmod : (u + 1) % len.toNat = u % len.toNat + 1 := by
    rw [hu, Nat.add_mul_mod_self_left, Nat.mod_eq_of_lt hmore]
  refine ⟨by bv_omega, ?_⟩
  rw [hu, Nat.add_mul_div_left _ _ (by omega), Nat.div_eq_of_lt hmore, Nat.zero_add]

end

/-- The dimension counters are the digits of `t` in the mixed radix of the lengths, dimension 0 the lowest;
dimension 3, which has no counter, has advanced as often as is left of `t` above them (R89). -/
def StreamDesc.CountsTo (d : StreamDesc) (t : Nat) : Prop :=
  d.d0Cnt.toNat = t % d.d0Len.toNat ∧
  d.d1Cnt.toNat = t / d.d0Len.toNat % d.d1Len.toNat ∧
  d.d2Cnt.toNat = t / d.d0Len.toNat / d.d1Len.toNat % d.d2Len.toNat ∧
  d.d3Pos = BitVec.ofNat 32 (t / d.d0Len.toNat / d.d1Len.toNat / d.d2Len.toNat) * d.d3Stride

/-- The three lengths of a descriptor are at least 1 (R86). -/
structure StreamDesc.LengthsPos (d : StreamDesc) : Prop where
  d0 : d.d0Len ≠ 0
  d1 : d.d1Len ≠ 0
  d2 : d.d2Len ≠ 0

/-- The carry chain counts by one: each digit that overflows is 0 again and carries into the next. -/
theorem StreamDesc.CountsTo.advance {d : StreamDesc} {t : Nat} (h : d.CountsTo t) (hlen : d.LengthsPos) :
    d.advance.CountsTo (t + 1) := by
  obtain ⟨c0, c1, c2, p3⟩ := h
  unfold StreamDesc.advance
  split
  · next w0 =>
    obtain ⟨m0, q0⟩ := succ_of_wrap hlen.d0 c0 w0
    unfold StreamDesc.advance1
    split
    · next w1 =>
      obtain ⟨m1, q1⟩ := succ_of_wrap hlen.d1 c1 w1
      unfold StreamDesc.advance2
      split
      · next w2 =>
        obtain ⟨m2, q2⟩ := succ_of_wrap hlen.d2 c2 w2
        simp only [StreamDesc.CountsTo, q0, q1, q2, p3, BitVec.ofNat_add, BitVec.add_mul, BitVec.one_mul]
        exact ⟨m0.symm, m1.symm, m2.symm, trivial⟩
      · next w2 =>
        obtain ⟨m2, q2⟩ := succ_of_no_wrap hlen.d2 c2 w2
        simp only [StreamDesc.CountsTo, q0, q1, q2]
        exact ⟨m0.symm, m1.symm, m2, p3⟩
    · next w1 =>
      obtain ⟨m1, q1⟩ := succ_of_no_wrap hlen.d1 c1 w1
      simp only [StreamDesc.CountsTo, q0, q1]
      exact ⟨m0.symm, m1, c2, p3⟩
  · next w0 =>
    obtain ⟨m0, q0⟩ := succ_of_no_wrap hlen.d0 c0 w0
    simp only [StreamDesc.CountsTo, q0]
    exact ⟨m0, c1, c2, p3⟩

/-! ## The course of a freshly configured stream -/

/-- `t` transactions into the course that starts at the descriptor `d0`, and not yet at its end. -/
structure StreamDesc.OnCourse (d0 d : StreamDesc) (t : Nat) : Prop where
  config : d.reconfigured = d0.reconfigured
  inv : StreamInv d
  digits : d.CountsTo t
  count : d.doneCnt.toNat = t
  notDone : t < d0.totLen.toNat

section
variable {d0 d : StreamDesc} {t : Nat}

theorem onCourse_configured (b n l0 t0 l1 t1 l2 t2 t3 : Word) (h : 0 < n.toNat) :
    (configured b n l0 t0 l1 t1 l2 t2 t3).OnCourse (configured b n l0 t0 l1 t1 l2 t2 t3) 0 where
  config := rfl
  inv := streamInv_configured ..
  digits := by simp [StreamDesc.CountsTo, configured, StreamDesc.zero]
  count := rfl
  notDone := h

/-- One transaction further along the course (R88, R89). -/
theorem StreamDesc.OnCourse.afterStep (h : d0.OnCourse d t) (hlen : d0.LengthsPos) (l : Nat)
    (ht : t + 1 < d0.totLen.toNat) : d0.OnCourse (d.afterStep l) (t + 1) := by
  have htot : d.totLen = d0.totLen := congrArg (·.totLen) h.config
  have hlen' : d.LengthsPos :=
    ⟨congrArg (·.d0Len) h.config ▸ hlen.d0, congrArg (·.d1Len) h.config ▸ hlen.d1,
      congrArg (·.d2Len) h.config ▸ hlen.d2⟩
  have hcount := h.count
  have hnot : d.doneCnt ≠ d.totLen := by rw [htot]; bv_omega
  have hmore : d.doneCnt + 1 ≠ d.totLen := by rw [htot]; bv_omega
  refine ⟨(afterStep_reconfigured d l).trans h.config, h.inv.afterStep hnot l, ?_, ?_, ht⟩
  · rw [afterStep_of_not_last l hmore]
    exact h.digits.advance hlen'
  · rw [(afterStep_counts d l).1]
    bv_omega

theorem StreamDesc.OnCourse.foldl (hlen : d0.LengthsPos) (lats : List Nat) :
    ∀ {d t}, d0.OnCourse d t → t + lats.length < d0.totLen.toNat →
      d0.OnCourse (lats.foldl StreamDesc.afterStep d) (t + lats.length) := by
  induction lats with
  | nil => exact fun h _ => h
  | cons l lats ih =>
    intro d t h hlt
    rw [List.length_cons] at hlt ⊢
    have hstep := ih (h.afterStep hlen l (by omega)) (by omega)
    rwa [show t + 1 + lats.length = t + (lats.length + 1) by omega] at hstep

/-- The address along the course, digit by digit (R87). -/
theorem StreamDesc.OnCourse.addr_eq (h : d0.OnCourse d t) :
    d.addr = d0.base + BitVec.ofNat 32 (t % d0.d0Len.toNat) * d0.d0Stride +
      BitVec.ofNat 32 (t / d0.d0Len.toNat % d0.d1Len.toNat) * d0.d1Stride +
      BitVec.ofNat 32 (t / (d0.d0Len.toNat * d0.d1Len.toNat) % d0.d2Len.toNat) * d0.d2Stride +
      BitVec.ofNat 32 (t / (d0.d0Len.toNat * d0.d1Len.toNat * d0.d2Len.toNat)) * d0.d3Stride := by
  obtain ⟨hcfg, ⟨⟨-, p0⟩, ⟨-, p1⟩, ⟨-, p2⟩, -⟩, ⟨c0, c1, c2, p3⟩, -, -⟩ := h
  simp only [StreamDesc.reconfigured, configured, StreamDesc.mk.injEq] at hcfg
  obtain ⟨hb, -, hl0, hs0, hl1, hs1, hl2, hs2, hs3, -⟩ := hcfg
  simp only [StreamDesc.addr, p0, p1, p2, p3, ← hb, ← hl0, ← hs0, ← hl1, ← hs1, ← hl2, ← hs2, ← hs3,
    ← Nat.div_div_eq_div_mul, ← c0, ← c1, ← c2, BitVec.ofNat_toNat, BitVec.setWidth_eq]

end

/-- Settles O27: a fresh descriptor is at the start of its course, where the count of transactions gives every
position. -/
theorem streamAddressClosedForm : Obligations.StreamAddressClosedForm := by
  unfold Obligations.StreamAddressClosedForm
  intro b n l0 t0 l1 t1 l2 t2 t3 lats t h0 h1 h2 ht hlt
  subst ht
  have hstart := onCourse_configured b n l0 t0 l1 t1 l2 t2 t3 (by omega)
  have hcourse := hstart.foldl ⟨h0, h1, h2⟩ lats (by rw [Nat.zero_add]; exact hlt)
  rw [Nat.zero_add] at hcourse
  exact hcourse.addr_eq

end Sys2Proof.Machine

/-! # Slots and lines (41_stride_generator R93, 42_tile_store R100 to R103) -/

namespace Sys2Proof.Machine

/-! ## A ring of elements -/

/-- A ring is written at the given positions only. -/
theorem getElem?_ringSet_other (line : List TileElem) {row : List TileElem} {c i : Nat}
    (h : ∀ e < line.length, i ≠ (c + e) % row.length) : (ringSet row c line)[i]? = row[i]? := by
  induction line generalizing row c with
  | nil => rfl
  | cons v vs ih =>
    have hfirst : i ≠ c % row.length := h 0 (by simp)
    rw [ringSet, ih fun e he => ?_, List.getElem?_set_ne hfirst.symm]
    have hrest := h (e + 1) (by simpa using he)
    rwa [List.length_set, show c + 1 + e = c + (e + 1) by omega]

/-- Two positions of a ring less than a turn apart differ. -/
theorem ring_positions_ne {c e n : Nat} (he : 0 < e) (hn : e < n) : c % n ≠ (c + e) % n := by
  intro h
  have hmod : (c + 0) % n = (c + e) % n := h
  have hcancel : Nat.ModEq n 0 e := Nat.ModEq.add_left_cancel' c hmod
  rw [Nat.ModEq, Nat.zero_mod, Nat.mod_eq_of_lt hn] at hcancel
  omega

/-- A line no longer than the ring is read back element by element. -/
theorem ringGet_ringSet (vals : List TileElem) {row : List TileElem} {c k : Nat}
    (hlen : vals.length ≤ row.length) (hk : k < vals.length) :
    ringGet (ringSet row c vals) (c + k) = vals[k] := by
  induction vals generalizing row c k with
  | nil => simp at hk
  | cons v vs ih =>
    rw [List.length_cons] at hlen hk
    cases k with
    | zero =>
      have hpos : c % row.length < row.length := Nat.mod_lt _ (by omega)
      have hkept : (ringSet row c (v :: vs))[c % row.length]? = some v := by
        rw [ringSet, getElem?_ringSet_other vs fun e he => ?_, List.getElem?_set_self hpos]
        rw [List.length_set, show c + 1 + e = c + (e + 1) by omega]
        exact ring_positions_ne (by omega) (by omega)
      rw [ringGet, ringSet_length, Nat.add_zero, hkept]
      rfl
    | succ k =>
      rw [ringSet, show c + (k + 1) = c + 1 + k by omega]
      exact ih (by rw [List.length_set]; omega) (by omega)

/-- Settles O39: a row is replaced, or a ring of at least `AW` columns is. -/
theorem slotReadsBackTheLineWritten : Obligations.SlotReadsBackTheLineWritten := by
  unfold Obligations.SlotReadsBackTheLineWritten
  intro p ts sl old line hlen hold hring
  cases sl with
  | w row =>
    obtain ⟨b, hb, hrow⟩ := Option.bind_eq_some_iff.1 hold
    obtain ⟨hlt, -⟩ := List.getElem?_eq_some_iff.1 hrow
    simp [TileStore.readSlot, TileStore.writeSlot, hb, hlt]
  | x row col =>
    obtain ⟨b, hb, hrow⟩ := Option.bind_eq_some_iff.1 hold
    obtain ⟨r, hr, -⟩ := Option.map_eq_some_iff.1 hrow
    obtain ⟨haw, -⟩ := hring b hb r (List.mem_of_getElem? hr)
    have hread : (List.range p.aw).map (fun e => ringGet (ringSet r col line) (col + e)) = line := by
      refine List.ext_getElem (by simp [hlen]) fun k _ hk => ?_
      rw [List.getElem_map, List.getElem_range]
      exact ringGet_ringSet line (hlen.trans_le haw) hk
    simp [TileStore.readSlot, TileStore.writeSlot, hb, hr, hread]
  | y row =>
    obtain ⟨hlt, -⟩ := List.getElem?_eq_some_iff.1 hold
    simp [TileStore.readSlot, TileStore.writeSlot, hlt]
  | z row =>
    obtain ⟨hlt, -⟩ := List.getElem?_eq_some_iff.1 hold
    simp [TileStore.readSlot, TileStore.writeSlot, hlt]

/-! ## The bytes of an element (20_memory R39) -/

/-- The first byte is the low one, the others are those of the element shifted down. -/
theorem elemBytes_succ (eb : Nat) (v : Elem) :
    elemBytes (eb + 1) (some v) = some (v.extractLsb' 0 8) :: elemBytes eb (some (v >>> 8)) := by
  simp only [elemBytes, List.range_succ_eq_map, List.map_cons, List.map_map, Option.map_some]
  congr 1
  refine List.map_congr_left fun t _ => ?_
  simp only [Function.comp_apply, Option.some.injEq]
  ext k hk
  simp [show 8 * (t + 1) + k = 8 + (8 * t + k) by omega]

/-- An element is its low byte under the rest of it. -/
theorem shift_or_lowByte (v : Elem) : v >>> 8 <<< 8 ||| (v.extractLsb' 0 8).setWidth 32 = v := by
  ext k hk
  by_cases h : k < 8
  · simp [h, BitVec.getLsbD_eq_getElem hk]
  · simp [h, show 8 + (k - 8) = k by omega, BitVec.getLsbD_eq_getElem hk]

/-- An element of so many bytes is the one of its bytes. -/
theorem elemOfBytes_elemBytes_some (eb : Nat) {v : Elem} (h : v.toNat < 2 ^ (8 * eb)) :
    elemOfBytes (elemBytes eb (some v)) = some v := by
  induction eb generalizing v with
  | zero =>
    have hv : v = 0 := BitVec.eq_of_toNat_eq (by simpa using h)
    rw [hv]
    rfl
  | succ eb ih =>
    have hshift : (v >>> 8).toNat < 2 ^ (8 * eb) := by
      rw [BitVec.toNat_ushiftRight, Nat.shiftRight_eq_div_pow, Nat.div_lt_iff_lt_mul (by decide), ← pow_add]
      exact h
    rw [elemBytes_succ, elemOfBytes, ih hshift, Option.map_some, shift_or_lowByte]

/-- The element is read back, a value of at most so many bytes or none (R93). -/
theorem elemOfBytes_elemBytes {eb : Nat} (heb : 0 < eb) (e : TileElem) (h : ∀ v ∈ e, v.toNat < 2 ^ (8 * eb)) :
    elemOfBytes (elemBytes eb e) = e := by
  cases e with
  | some v => exact elemOfBytes_elemBytes_some eb (h v rfl)
  | none =>
    obtain ⟨n, rfl⟩ := Nat.exists_eq_add_of_lt heb
    simp [elemBytes, List.range_succ_eq_map, elemOfBytes]

/-! ## The bytes of a line (20_memory R38) -/

/-- The first element of a line is that of its first bytes. -/
theorem bytesToLine_append {eb : Nat} (count : Nat) {first : List (Option Byte)} (rest : List (Option Byte))
    (h : first.length = eb) :
    bytesToLine (count + 1) eb (first ++ rest) = elemOfBytes first :: bytesToLine count eb rest := by
  subst h
  simp only [bytesToLine, List.range_succ_eq_map, List.map_cons, List.map_map, Nat.zero_mul, List.drop_zero,
    List.take_left]
  congr 1
  refine List.map_congr_left fun e _ => ?_
  have hdrop : (first ++ rest).drop ((e + 1) * first.length) = rest.drop (e * first.length) := by
    rw [Nat.succ_mul, Nat.add_comm, ← List.drop_drop, List.drop_left]
  rw [Function.comp_apply, hdrop]

/-- Settles O40: element by element, each from its own bytes. -/
theorem lineAndBytesAreInverse : Obligations.LineAndBytesAreInverse := by
  unfold Obligations.LineAndBytesAreInverse
  intro eb line heb hline
  refine ⟨by rw [lineToBytes_length, Nat.mul_comm], ?_⟩
  induction line with
  | nil => rfl
  | cons e line ih =>
    obtain ⟨he, hrest⟩ := List.forall_mem_cons.1 hline
    have happend : lineToBytes eb (e :: line) = elemBytes eb e ++ lineToBytes eb line := rfl
    rw [happend, List.length_cons, bytesToLine_append _ _ (elemBytes_length eb e),
      elemOfBytes_elemBytes (by omega) e he, ih hrest]

end Sys2Proof.Machine

/-! # The tile store's operations by themselves (42_tile_store R98 to R104, R110) -/

namespace Sys2Proof.Machine

/-! ## The kernel as a sum (R104, R106) -/

/-- The accumulator is the Y element, folded over the indices in ascending order. -/
theorem kernelAcc_eq_foldl (p : Params) (ts : TileStore) (x w : TileBuf) (i c n : Nat) :
    kernelAcc p ts x w i c n =
      (List.range n).foldl (fun acc k => fmaElem p (x.elem i ((ts.xOffs + k) % ts.xCap)) (w.elem k c) acc)
        (ts.y.elem (i + ts.yOffs) c) := by
  induction n with
  | zero => rfl
  | succ n ih => rw [kernelAcc, ih, List.range_succ, List.foldl_concat]

/-- Settles O37: the tile holds the accumulators, each the fold over `k`. -/
theorem computezCompletes : Obligations.ComputezCompletes := by
  unfold Obligations.ComputezCompletes
  intro s j x w hf hj hx hw
  refine ⟨_, exec_tsComputez hf hj hx hw, kernelTile_shape .., fun i c hi hc => ?_, rfl⟩
  exact (kernelTile_elem s.par s.ts x w j.n.toNat hi hc).trans (kernelAcc_eq_foldl ..)

/-! ## The capacities (R99) -/

theorem wCap_of_some {ts : TileStore} {b : TileBuf} (h : ts.w = some b) : ts.wCap = b.length := by
  simp [TileStore.wCap, h]

theorem xCap_of_cons {ts : TileStore} {row : List TileElem} {b : TileBuf} (h : ts.x = some (row :: b)) :
    ts.xCap = row.length := by
  simp [TileStore.xCap, h]

section
variable (p : Params) (ts : TileStore) (n : Word) (a b c d : BitVec 8)

theorem alloc_wCap : (ts.alloc p n a b c d).wCap = n.toNat + p.pad c.toNat := by
  rw [wCap_of_some rfl, TileBuf.unloaded, List.length_replicate]

/-- The columns are read off the first row, and `AW` is at least 1. -/
theorem alloc_xCap (h : 0 < p.aw) :
    (ts.alloc p n a b c d).xCap = n.toNat + p.pad b.toNat + p.xExtra := by
  obtain ⟨rows, hrows⟩ := Nat.exists_eq_add_one.2 h
  have hx : (ts.alloc p n a b c d).x =
      some (List.replicate (n.toNat + p.pad b.toNat + p.xExtra) none ::
        TileBuf.unloaded rows (n.toNat + p.pad b.toNat + p.xExtra)) := by
    simp [TileStore.alloc, TileBuf.unloaded, hrows, List.replicate_succ]
  rw [xCap_of_cons hx, List.length_replicate]

end

/-! ## The next slots of W and X, where the buffer has one (R100, R101) -/

section
variable {s : State}

theorem nextW_ok (h : s.ts.wCap ≠ 0) :
    nextW s = .ok (.w s.ts.wCnt) (s.setTs { s.ts with wCnt := (s.ts.wCnt + 1) % s.ts.wCap }) :=
  if_neg h

/-- The last row of a chunk: the column cursor moves on. -/
theorem nextX_ok_of_last (h : s.ts.xCap ≠ 0) (hi : s.ts.xI + 1 = s.par.aw) :
    nextX s = .ok (.x s.ts.xI s.ts.xC)
      (s.setTs { s.ts with xI := 0, xC := (s.ts.xC + s.par.aw) % s.ts.xCap }) := by
  rw [nextX, if_neg h, if_pos hi]

/-- A row before it: the row cursor moves on. -/
theorem nextX_ok_of_not_last (h : s.ts.xCap ≠ 0) (hi : s.ts.xI + 1 ≠ s.par.aw) :
    nextX s = .ok (.x s.ts.xI s.ts.xC) (s.setTs { s.ts with xI := s.ts.xI + 1 }) := by
  rw [nextX, if_neg h, if_neg hi]

/-- Whether or not it is the last row, the slot is the one at the two cursors. -/
theorem nextX_returns (h : s.ts.xCap ≠ 0) : ∃ u, nextX s = .ok (.x s.ts.xI s.ts.xC) u := ⟨_, if_neg h⟩

theorem exec_tsNextw (hf : s.fault = none) : exec .tsNextw s = finish (nextW s) .slot :=
  unlessStopped_of_none s _ hf

theorem exec_tsNextx (hf : s.fault = none) : exec .tsNextx s = finish (nextX s) .slot :=
  unlessStopped_of_none s _ hf

end

/-! ## Calls in a row -/

/-- One call more, where it answers. -/
theorem afterCalls_succ {next : State → Res Slot} {k : Nat} {s t : State} {sl : Slot}
    (h : next (afterCalls next k s) = .ok sl t) : afterCalls next (k + 1) s = t := by
  simp [afterCalls, h]

/-- The cursor of W, 0 at the start, counts the calls modulo `WCAP`. -/
theorem afterCalls_nextW {s : State} (h0 : { s.ts with wCnt := 0 } = s.ts) (hc : s.ts.wCap ≠ 0) (t : Nat) :
    afterCalls nextW t s = s.setTs { s.ts with wCnt := t % s.ts.wCap } := by
  induction t with
  | zero => rw [Nat.zero_mod, h0]; rfl
  | succ t ih =>
    rw [afterCalls_succ (by rw [ih]; exact nextW_ok hc)]
    simp [State.setTs, TileStore.wCap]

/-- The count that fills a chunk of `m`: its remainder is 0 and its quotient one more. -/
theorem succ_divMod_of_last {t m : Nat} (hm : 0 < m) (h : t % m + 1 = m) :
    (t + 1) / m = t / m + 1 ∧ (t + 1) % m = 0 := by
  have hsplit := Nat.mod_add_div t m
  exact (Nat.div_mod_unique hm).2 ⟨by rw [Nat.mul_add_one]; omega, hm⟩

/-- The count that does not: the remainder goes up by one and the quotient stays. -/
theorem succ_divMod_of_not_last {t m : Nat} (hm : 0 < m) (h : t % m + 1 ≠ m) :
    (t + 1) / m = t / m ∧ (t + 1) % m = t % m + 1 := by
  have hsplit := Nat.mod_add_div t m
  have hlt := Nat.mod_lt t hm
  exact (Nat.div_mod_unique hm).2 ⟨by omega, by omega⟩

/-- The row cursor of X, 0 at the start, counts the calls modulo `AW`, its column cursor the chunks filled. -/
theorem afterCalls_nextX {s : State} (h0 : { s.ts with xI := 0, xC := 0 } = s.ts) (ha : 0 < s.par.aw)
    (hc : s.ts.xCap ≠ 0) (t : Nat) :
    afterCalls nextX t s =
      s.setTs { s.ts with xI := t % s.par.aw, xC := t / s.par.aw * s.par.aw % s.ts.xCap } := by
  induction t with
  | zero => rw [Nat.zero_mod, Nat.zero_div, Nat.zero_mul, Nat.zero_mod, h0]; rfl
  | succ t ih =>
    by_cases hi : t % s.par.aw + 1 = s.par.aw
    · obtain ⟨hdiv, hmod⟩ := succ_divMod_of_last ha hi
      rw [afterCalls_succ (by rw [ih]; exact nextX_ok_of_last hc hi), hdiv, hmod, Nat.add_one_mul]
      simp [State.setTs, TileStore.xCap]
    · obtain ⟨hdiv, hmod⟩ := succ_divMod_of_not_last ha hi
      rw [afterCalls_succ (by rw [ih]; exact nextX_ok_of_not_last hc hi), hdiv, hmod]
      rfl

/-! ## The operations, executed -/

/-- Settles O35: the cursor after `t` calls is `t` modulo the rows allocated. -/
theorem nextWWalksTheRing : Obligations.NextWWalksTheRing := by
  unfold Obligations.NextWWalksTheRing
  refine ⟨fun s b hf hb hlen => ?_, fun s n a b c d t hcap => ?_⟩
  · have hcap := wCap_of_some hb
    rw [exec_tsNextw hf, nextW_ok (hcap.trans_ne hlen), hcap]
    rfl
  · have hwCap := alloc_wCap s.par s.ts n a b c d
    have hne : (s.ts.alloc s.par n a b c d).wCap ≠ 0 := hwCap.trans_ne hcap
    rw [afterCalls_nextW rfl hne, hwCap]
    exact ⟨_, nextW_ok hne⟩

/-- Settles O36: after `t` calls the row cursor is the remainder of `t` by `AW`, and the column cursor is as many
chunks of `AW` on as the quotient says. -/
theorem nextXFillsChunksInOrder : Obligations.NextXFillsChunksInOrder := by
  unfold Obligations.NextXFillsChunksInOrder
  intro s n a b c d t xcap ha hx hne
  have hxCap : (s.ts.alloc s.par n a b c d).xCap = xcap := (alloc_xCap s.par s.ts n a b c d ha).trans hx.symm
  have hcap : (s.ts.alloc s.par n a b c d).xCap ≠ 0 := hxCap.trans_ne hne
  rw [afterCalls_nextX (s := { s with ts := s.ts.alloc s.par n a b c d }) rfl ha hcap, hxCap]
  exact nextX_returns hcap

/-- Settles O33: both operations set the tile store, `TS.ALLOC` by the geometry of R99. -/
theorem tsAllocAndFreeComplete : Obligations.TsAllocAndFreeComplete := by
  unfold Obligations.TsAllocAndFreeComplete
  intro s n a b c d hf
  exact ⟨unlessStopped_of_none s _ hf, unlessStopped_of_none s _ hf⟩

/-- Settles O34: X at the last row of a chunk and before it; Y and Z always have a next slot. -/
theorem nextSlotsComplete : Obligations.NextSlotsComplete := by
  unfold Obligations.NextSlotsComplete
  intro s hf
  refine ⟨fun row b hb hrow => ?_, unlessStopped_of_none s _ hf, unlessStopped_of_none s _ hf⟩
  have hcap := xCap_of_cons hb
  have hne : s.ts.xCap ≠ 0 := hcap.trans_ne hrow
  by_cases hi : s.ts.xI + 1 = s.par.aw
  · rw [exec_tsNextx hf, nextX_ok_of_last hne hi, if_pos hi, hcap]
    rfl
  · rw [exec_tsNextx hf, nextX_ok_of_not_last hne hi, if_neg hi]
    rfl

end Sys2Proof.Machine

/-! # A step with nothing queued (43_scheduler R117, R118, R132) -/

namespace Sys2Proof.Machine

theorem step_of_nil {s : State} (hi : s.inbox = []) (hf : s.fault = none) :
    step s = if s.donePending then exec .schedComplete s else
      if s.mainPending then exec .schedInvoke s else .next s := by
  have hact : nextAction s = ownAction s := by rw [nextAction, hi]
  rw [step, hact, ownAction, hf]
  cases s.donePending <;> cases s.mainPending <;> rfl

/-- Settles O7: the order of the tests is that of the model's own action. -/
theorem stepWithoutInput : Obligations.StepWithoutInput := by
  unfold Obligations.StepWithoutInput
  intro s hi
  refine ⟨fun f hf => step_blockStopped hi hf, fun hf hd => ?_, fun hf hd hm => ?_, fun hf hd hm => ?_⟩ <;>
    rw [step_of_nil hi hf]
  · rw [if_pos hd]
  · simp [hd, hm]
  · simp [hd, hm]

/-- The completion, where its continuation is pending, and FSM.FINISHED, which has the same pseudocode (R132). -/
theorem exec_completion {s : State} (hf : s.fault = none) (hd : s.donePending = true) {i : Instr}
    (hi : i = .fsmFinished ∨ i = .schedComplete) : exec i s = .next (complete s) := by
  have hpending : completeIfPending s = complete s := if_pos hd
  rcases hi with rfl | rfl <;>
    exact (unlessStopped_of_none s _ hf).trans (congrArg Host.Outcome.next hpending)

/-- Settles O47: `complete` sets the fields R132 lists. -/
theorem completionReturnsToIdle : Obligations.CompletionReturnsToIdle := by
  unfold Obligations.CompletionReturnsToIdle
  intro s hf
  exact ⟨unlessStopped_of_none s _ hf, fun hd i hi => exec_completion hf hd hi⟩

end Sys2Proof.Machine
/-! # The scheduler's register over one micro-step (43_scheduler R121 to R130) -/

namespace Sys2Proof.Machine

/-- The position of a hypercycle that has ended, back at the first subcycle of the first cycle (R125). -/
def Sched.wrapped (c : Sched) : Sched := { c with sub := 0, cyc := 0 }

/-- Everything a micro-step does to the scheduler of a job: one constructor for each edge of the position
`(state, hyper, cyc, sub)`. -/
inductive SchedStep (p : Params) (j : Job) (c : Sched) : Sched → Prop
  | preload (hs : c.state = stStarting) : SchedStep p j c (afterPreload p c)
  | nextSub (hs : c.state = stComputing ∨ c.state = stStoring) (hsub : c.sub + 1 ≠ p.nsub) :
      SchedStep p j c { c with sub := c.sub + 1 }
  | nextCyc (hs : c.state = stComputing ∨ c.state = stStoring) (hsub : c.sub + 1 = p.nsub)
      (hcyc : c.cyc + 1 ≠ p.ncyc) : SchedStep p j c { c with sub := 0, cyc := c.cyc + 1 }
  | nextHyper (hs : c.state = stComputing) (hsub : c.sub + 1 = p.nsub) (hcyc : c.cyc + 1 = p.ncyc)
      (hhyper : c.hyper.toNat + 1 ≠ j.nh) :
      SchedStep p j c { c.wrapped with hyper := c.hyper + 1 }
  | store (hs : c.state = stComputing) (hsub : c.sub + 1 = p.nsub) (hcyc : c.cyc + 1 = p.ncyc)
      (hhyper : c.hyper.toNat + 1 = j.nh) (lastStrobe : Nat) :
      SchedStep p j c { bookkept p j lastStrobe c.wrapped with
        state := stStoring, hyper := 0 }
  | finish (hs : c.state = stStoring) (hsub : c.sub + 1 = p.nsub) (hcyc : c.cyc + 1 = p.ncyc)
      (hdone : c.jobDone = true) : SchedStep p j c { c.wrapped with state := stFinished }
  | nextPass (hs : c.state = stStoring) (hsub : c.sub + 1 = p.nsub) (hcyc : c.cyc + 1 = p.ncyc)
      (hdone : c.jobDone = false) :
      SchedStep p j c { c.wrapped with state := stComputing, hyper := 0 }

theorem computeZ_ok {s t : State} (h : computeZ s = .ok () t) : ∃ ts, t = s.setTs ts := by
  unfold computeZ at h
  split at h
  · cases h; exact ⟨_, rfl⟩
  · cases h
  · cases h

section
variable {s t : State} {j : Job}

theorem storeBookkeeping_eq {m : Nat} (hj : s.job = some j) (hm : lastTileStrobe s.par j = some m) :
    storeBookkeeping s = .ok () (s.setSch (bookkept s.par j m s.sch)) := by
  simp only [storeBookkeeping, hj, hm]

theorem storeBookkeeping_ok (hj : s.job = some j) (h : storeBookkeeping s = .ok () t) :
    ∃ m, t = s.setSch (bookkept s.par j m s.sch) := by
  cases hm : lastTileStrobe s.par j with
  | none => simp [storeBookkeeping, hj, hm] at h
  | some m =>
    rw [storeBookkeeping_eq hj hm] at h
    cases h
    exact ⟨m, rfl⟩

/-- The end of a COMPUTING hypercycle: the next one, or the end of the pass (R126). -/
theorem endComputing_ok (hj : s.job = some j) (h : endComputing s = .ok () t) :
    (s.sch.hyper.toNat + 1 ≠ j.nh ∧ t.sch = { s.sch with hyper := s.sch.hyper + 1 }) ∨
      (s.sch.hyper.toNat + 1 = j.nh ∧
        ∃ m, t.sch = { bookkept s.par j m s.sch with state := stStoring, hyper := 0 }) := by
  simp only [endComputing, hj] at h
  split at h
  · next hlast =>
    obtain ⟨_, s1, h1, h2⟩ := Res.bind_eq_ok h
    obtain ⟨_, s2, h3, h4⟩ := Res.bind_eq_ok h2
    obtain ⟨ts, rfl⟩ := computeZ_ok h1
    obtain ⟨m, rfl⟩ := storeBookkeeping_ok (s := s.setTs ts) hj h3
    cases h4
    exact Or.inr ⟨hlast, m, rfl⟩
  · next hmore =>
    cases h
    exact Or.inl ⟨hmore, rfl⟩

/-- The end of the STORING hypercycle (R130). -/
theorem endStoring_ok (h : endStoring s = .ok () t) :
    (s.sch.jobDone = true ∧ t.sch = { s.sch with state := stFinished }) ∨
      (s.sch.jobDone = false ∧ t.sch = { s.sch with state := stComputing, hyper := 0 }) := by
  unfold endStoring at h
  split at h
  · next hd => cases h; exact Or.inl ⟨hd, rfl⟩
  · next hd => cases h; exact Or.inr ⟨Bool.eq_false_of_not_eq_true hd, rfl⟩

/-- The micro-step of a phase of hypercycles moves the position that the stream step left alone; at the end of
the hypercycle the phase says what follows. -/
theorem microPhase_schedStep {sel : BitVec 3} {e : State → Res Unit} {lat : Nat}
    (hs : s.sch.state = stComputing ∨ s.sch.state = stStoring) (hj : s.job = some j)
    (he : ∀ u t, u.job = some j → e u = .ok () t → u.par = s.par →
      u.sch = s.sch.wrapped → s.sch.sub + 1 = s.par.nsub →
      s.sch.cyc + 1 = s.par.ncyc → SchedStep s.par j s.sch t.sch)
    (h : microPhase sel e s = .ok lat t) : SchedStep s.par j s.sch t.sch := by
  obtain ⟨_, u, hu, h⟩ := Res.bind_eq_ok h
  obtain ⟨⟨⟩, v, hv, h⟩ := Res.bind_eq_ok h
  cases h
  obtain ⟨⟨-, hjob, hsch, -, -, -, hpar, -⟩, -⟩ := doStep_frame hu
  rcases nextPosition_cases e u with ⟨hsub, hn⟩ | ⟨hsub, hcyc, hn⟩ | ⟨hsub, hcyc, hn⟩ <;>
    rw [hn] at hv <;> rw [hsch, hpar] at hsub
  · cases hv
    rw [State.setSch_sch, hsch]
    exact .nextSub hs hsub
  · cases hv
    rw [hsch, hpar] at hcyc
    rw [State.setSch_sch, hsch]
    exact .nextCyc hs hsub hcyc
  · rw [hsch, hpar] at hcyc
    exact he (u.setSch u.sch.wrapped) t (hjob.trans hj) hv hpar (by rw [State.setSch_sch, hsch]) hsub hcyc

/-- A micro-step that succeeds moves the scheduler by one of these edges. -/
theorem microStep_schedStep {lat : Nat} (hs : Running s.sch) (hj : s.job = some j)
    (h : microStep s = .ok lat t) : SchedStep s.par j s.sch t.sch := by
  rcases hs with hs | hs | hs
  · have hm : microStep s = microStarting s := by simp [microStep, hs]
    rw [hm] at h
    obtain ⟨_, u, hu, h⟩ := Res.bind_eq_ok h
    cases h
    obtain ⟨⟨-, -, hsch, -, -, -, hpar, -⟩, -⟩ := doStep_frame hu
    rw [State.setSch_sch, hsch, hpar]
    exact .preload hs
  · have hm : microStep s = microComputing s := by simp [microStep, hs]
    rw [hm] at h
    refine microPhase_schedStep (Or.inl hs) hj (fun u v huj hv hpar hu hsub hcyc => ?_) h
    rcases endComputing_ok huj hv with ⟨hmore, hsch⟩ | ⟨hlast, m, hsch⟩
    · rw [hu] at hmore hsch
      rw [hsch]
      exact .nextHyper hs hsub hcyc hmore
    · rw [hu] at hlast hsch
      rw [hsch, hpar]
      exact .store hs hsub hcyc hlast m
  · have hm : microStep s = microStoring s := by simp [microStep, hs]
    rw [hm] at h
    refine microPhase_schedStep (Or.inr hs) hj (fun u v _ hv _ hu hsub hcyc => ?_) h
    rcases endStoring_ok hv with ⟨hdone, hsch⟩ | ⟨hmore, hsch⟩
    · rw [hu] at hdone hsch
      rw [hsch]
      exact .finish hs hsub hcyc hdone
    · rw [hu] at hmore hsch
      rw [hsch]
      exact .nextPass hs hsub hcyc hmore

end

end Sys2Proof.Machine

/-! # The invocation of a running job (43_scheduler R118, R131) -/

namespace Sys2Proof.Machine

/-- What an invocation that raises nothing leaves: the same job, the scheduler one micro-step on, and that
micro-step's latency charged. -/
structure Advanced (s : State) (j : Job) (t : State) : Prop where
  active : ActiveInv t j
  code : t.sch.state ≠ stIdle ∧ t.sch.state.toNat ≤ 4
  par : t.par = s.par
  step : ∃ c lat, SchedStep s.par j { s.sch with latAcc := 0 } c ∧
    t.sch = { c with latAcc := c.latAcc + lat, latTotal := c.latTotal + lat }

/-- A running block has its one continuation pending, and an active job (R30). -/
theorem RunInv.running {s : State} (h : RunInv s) (hm : s.mainPending = true) :
    Running s.sch ∧ s.donePending = false ∧ ∃ j, ActiveInv s j := by
  have hs : Running s.sch := h.mainPending_iff.1 hm
  have hne : s.sch.state ≠ stIdle ∧ s.sch.state ≠ stFinished := by rcases hs with hs | hs | hs <;> simp [hs]
  exact ⟨hs, Bool.eq_false_iff.2 fun hd => hne.2 (h.donePending_iff.1 hd), h.active hne.1⟩

/-- An invocation advances the job, or raises with the state register as it was. -/
theorem exec_schedInvoke_ends {s : State} (h : BlockInv s) (hf : s.fault = none)
    (hm : s.mainPending = true) :
    StepEnds (fun t => (∃ j, s.job = some j ∧ Advanced s j t) ∨
      t.fault.isSome = true ∧ t.sch.state = s.sch.state) False (exec .schedInvoke s) := by
  obtain ⟨hs, hd, j, hact⟩ := (h.2 hf).running hm
  have hact0 : ActiveInv (beginInvocation s) j := { hact with }
  rw [exec_schedInvoke hf hm]
  refine stepEnds_finishUnit (Res.Ends.bind (Q := fun _ u => Continues (beginInvocation s) j u ∧
    SchedStep s.par j { s.sch with latAcc := 0 } u.sch) ?_ fun lat u ⟨⟨hu, hcode, hk⟩, hstep⟩ => ?_)
  · refine (microStep_ends hact0 h.1 hs).imp (fun lat u hu hc => ?_) fun u ⟨hraised, hkeeps, _⟩ => ?_
    · exact ⟨hc, microStep_schedStep (s := beginInvocation s) hs hact.job hu⟩
    · obtain ⟨-, -, hsch, -⟩ := hkeeps
      exact Or.inr ⟨hraised, by rw [hsch]; rfl⟩
  · rw [scheduleNext_eq (s := chargeLatency lat u) hk.mainPending (hk.donePending.trans hd)]
    exact Or.inl ⟨j, hact.job, { hu with }, hcode, hk.par, u.sch, lat, hstep, rfl⟩

end Sys2Proof.Machine

/-! # The state graph (43_scheduler R116, R117) -/

namespace Sys2Proof.Machine

/-- The edges of R116's graph, and staying; the edge that leaves IDLE asks for `triggered`. -/
def StateEdge (triggered : Prop) (a b : BitVec 3) : Prop :=
  b = a ∨
  (a = stIdle ∧ b = stStarting ∧ triggered) ∨
  (a = stStarting ∧ b = stComputing) ∨
  (a = stComputing ∧ b = stStoring) ∨
  (a = stStoring ∧ (b = stComputing ∨ b = stFinished)) ∨
  (a = stFinished ∧ b = stIdle)

section
variable {triggered : Prop} {s t : State}

theorem StateEdge.refl (triggered : Prop) (a : BitVec 3) : StateEdge triggered a a := Or.inl rfl

theorem StateEdge.imp {triggered' : Prop} {a b : BitVec 3} (h : StateEdge triggered a b)
    (himp : triggered → triggered') : StateEdge triggered' a b :=
  Or.imp_right (Or.imp_left fun ⟨ha, hb, ht⟩ => ⟨ha, hb, himp ht⟩) h

/-- A micro-step takes an edge of the graph or stays. -/
theorem SchedStep.stateEdge {p : Params} {j : Job} {c c' : Sched} (h : SchedStep p j c c') :
    StateEdge triggered c.state c'.state := by
  cases h with
  | preload hs =>
    unfold afterPreload
    split
    · exact Or.inr (Or.inr (Or.inl ⟨hs, rfl⟩))
    · exact .refl _ _
  | nextSub => exact .refl _ _
  | nextCyc => exact .refl _ _
  | nextHyper => exact .refl _ _
  | store hs => exact Or.inr (Or.inr (Or.inr (Or.inl ⟨hs, rfl⟩)))
  | finish hs => exact Or.inr (Or.inr (Or.inr (Or.inr (Or.inl ⟨hs, Or.inr rfl⟩))))
  | nextPass hs => exact Or.inr (Or.inr (Or.inr (Or.inr (Or.inl ⟨hs, Or.inl rfl⟩))))

theorem exec_schedInvoke_stateEdge (h : BlockInv s) (hf : s.fault = none) (ht : exec .schedInvoke s = .next t) :
    StateEdge triggered s.sch.state t.sch.state := by
  cases hm : s.mainPending with
  | true =>
    rcases (exec_schedInvoke_ends h hf hm).of_next ht with ⟨j, -, -, -, -, c, lat, hstep, hsch⟩ | ⟨-, hstate⟩
    · rw [hsch]
      exact hstep.stateEdge
    · exact Or.inl hstate
  | false =>
    rw [exec, execSchedInvoke, hm, unlessStopped_of_none s _ hf] at ht
    cases ht
    exact .refl _ _

theorem exec_schedComplete_stateEdge (h : BlockInv s) (hf : s.fault = none)
    (ht : exec .schedComplete s = .next t) : StateEdge triggered s.sch.state t.sch.state := by
  rw [exec, execSchedComplete, unlessStopped_of_none s _ hf, completeIfPending] at ht
  split at ht <;> cases ht
  · next hd =>
    have hfin := (h.2 hf).donePending_iff.1 hd
    exact Or.inr (Or.inr (Or.inr (Or.inr (Or.inr ⟨hfin, rfl⟩))))
  · exact .refl _ _

/-- `TRIGGER` starts the job, or raises (R78). -/
theorem exec_trigger_stateEdge {d : Word} (hf : s.fault = none) (ht : exec (.trigger d) s = .next t) :
    StateEdge True s.sch.state t.sch.state := by
  by_cases hidle : s.sch.state = stIdle
  · cases hcheck : cfgCheck s.par s.cfg with
    | some check =>
      rw [exec_trigger_of_invalid hf hidle hcheck] at ht
      cases ht
      exact .refl _ _
    | none =>
      rw [exec_entry (d := d) hf ((cfgCheck_eq_none_iff _ _).1 hcheck) (Or.inl ⟨rfl, hidle⟩)] at ht
      cases ht
      exact Or.inr (Or.inl ⟨hidle, rfl, trivial⟩)
  · rw [exec_trigger_of_busy hf hidle] at ht
    cases ht
    exact .refl _ _

theorem cfgWrite_sch {r : CfgReg} {v : Word} (hf : s.fault = none) (ht : cfgWrite r v s = .next t) :
    t.sch = s.sch := by
  by_cases hidle : s.sch.state = stIdle
  · rw [cfgWrite_of_idle hf hidle] at ht
    cases ht
    rfl
  · rw [cfgWrite_of_busy hf hidle] at ht
    cases ht
    rfl

/-- An operation of the boundary takes an edge of the graph or stays, and `TRIGGER` alone leaves IDLE (R117). -/
theorem exec_stateEdge {i : Instr} (hi : BoundaryOp i) (h : BlockInv s) (hf : s.fault = none)
    (ht : exec i s = .next t) : StateEdge (∃ d, i = .trigger d) s.sch.state t.sch.state := by
  cases hi with
  | cfgwr r v =>
    rw [exec_cfgwrOf] at ht
    exact Or.inl (congrArg Sched.state (cfgWrite_sch hf ht))
  | trigger d => exact (exec_trigger_stateEdge hf ht).imp fun _ => ⟨d, rfl⟩
  | irqclr d =>
    rw [exec_irqclr hf] at ht
    cases ht
    exact .refl _ _
  | schedInvoke => exact exec_schedInvoke_stateEdge h hf ht
  | schedComplete => exact exec_schedComplete_stateEdge h hf ht

/-- The word of `TRIGGER` is a host command at its offset (30_encoding R65). -/
theorem word_of_decode_trigger {w : OpWord} {d : Word} (h : decode w = .ok (.trigger d)) :
    ∃ word, w = .hc word ∧ hcOffset word = 0x2C :=
  ⟨0x2C ++ d, (encodeOfDecodeIsIdentity w _ h).symm, hcOffset_append _ _⟩

theorem decode_of_presentWord {w : OpWord} {i : Instr} (h : presentWord w s = .run i t) : decode w = .ok i := by
  unfold presentWord at h
  split at h
  · next hd => cases h; exact hd
  · next e _ => cases e <;> cases h

theorem step_word_stateEdge {w : OpWord} {rest : List Input} (hi : s.inbox = .word w :: rest)
    (hw : (Input.word w).atBoundary = true) (h : BlockInv s) (hf : s.fault = none) (ht : step s = .next t) :
    StateEdge (∃ word, w = .hc word ∧ hcOffset word = 0x2C) s.sch.state t.sch.state := by
  rw [step, nextAction_of_word hi] at ht
  rcases presentWord_cases hw (s.setInbox rest) with ⟨i, hrun, hop⟩ | ⟨o, hraise⟩
  · rw [hrun] at ht
    refine (exec_stateEdge (s := s.setInbox rest) hop h hf ht).imp fun ⟨d, hd⟩ => ?_
    subst hd
    exact word_of_decode_trigger (decode_of_presentWord hrun)
  · rw [hraise, raiseFatal_of_none _ (s.setInbox rest) hf] at ht
    cases ht
    exact .refl _ _

theorem ownAction_stateEdge (hi : s.inbox = []) (h : BlockInv s) (hf : s.fault = none)
    (ht : step s = .next t) : StateEdge triggered s.sch.state t.sch.state := by
  obtain ⟨-, hcomplete, hinvoke, hidle⟩ := stepWithoutInput s hi
  cases hd : s.donePending with
  | true => exact exec_schedComplete_stateEdge h hf ((hcomplete hf hd).symm.trans ht)
  | false =>
    cases hm : s.mainPending with
    | true => exact exec_schedInvoke_stateEdge h hf ((hinvoke hf hd hm).symm.trans ht)
    | false =>
      obtain rfl := Host.Outcome.next.inj ((hidle hf hd hm).symm.trans ht)
      exact .refl _ _

end

/-- Settles O53: a reset apart, a word, a continuation and another master's write each take an edge of the graph
or stay. -/
theorem stateGraphHasNoOtherEdge : Obligations.StateGraphHasNoOtherEdge := by
  unfold Obligations.StateGraphHasNoOtherEdge
  intro s t h hf hb ht
  cases hi : s.inbox with
  | nil => exact Or.inr (ownAction_stateEdge hi h hf ht)
  | cons input rest =>
    cases input with
    | reset => exact Or.inl ⟨rest, rfl⟩
    | memory addr value =>
      rw [step, nextAction, hi] at ht
      cases ht
      exact Or.inr (Or.inl rfl)
    | word w =>
      refine Or.inr ((step_word_stateEdge hi (hb _ (by simp [hi])) h hf ht).imp fun ⟨word, hw, ho⟩ => ?_)
      exact ⟨word, rest, by rw [hw], ho⟩

end Sys2Proof.Machine

/-! # The length of a job (43_scheduler R129, R140) -/

namespace Sys2Proof.Machine

/-! ## The measure, state by state -/

/-- The passes whose bookkeeping is still to be done (R129). -/
def passesLeft (j : Job) (c : Sched) : Nat := j.xRows.toNat * j.wCols.toNat - passesCounted j c

/-- The micro-steps of one pass: `nh` COMPUTING hypercycles and one of STORING (R140). -/
def passSteps (p : Params) (j : Job) : Nat := (j.nh + 1) * hyperSteps p

/-- The subcycles of the hypercycle that have run (R122). -/
def hyperDone (p : Params) (c : Sched) : Nat := c.cyc * p.nsub + c.sub

section
variable {p : Params} {j : Job} {c : Sched}

theorem remainingSteps_starting (hs : c.state = stStarting) :
    remainingSteps p j c = (p.npre - c.pre) + passesLeft j c * passSteps p j := by
  simp [remainingSteps, hs, passesLeft, passSteps]

theorem remainingSteps_computing (hs : c.state = stComputing) :
    remainingSteps p j c = ((j.nh - c.hyper.toNat) * hyperSteps p - hyperDone p c) + hyperSteps p +
      (passesLeft j c - 1) * passSteps p j := by
  simp [remainingSteps, hs, passesLeft, passSteps, hyperDone]

theorem remainingSteps_storing (hs : c.state = stStoring) :
    remainingSteps p j c = (hyperSteps p - hyperDone p c) + passesLeft j c * passSteps p j := by
  simp [remainingSteps, hs, passesLeft, passSteps, hyperDone]

theorem remainingSteps_finished (hs : c.state = stFinished) : remainingSteps p j c = 0 := by
  simp [remainingSteps, hs]

/-! ## Positions in a hypercycle -/

theorem hyperDone_start (hc : c.cyc = 0) (hs : c.sub = 0) : hyperDone p c = 0 := by
  rw [hyperDone, hc, hs, Nat.zero_mul]

theorem hyperDone_nextCyc (hs : c.sub + 1 = p.nsub) :
    hyperDone p { c with sub := 0, cyc := c.cyc + 1 } = hyperDone p c + 1 := by
  rw [hyperDone, hyperDone, Nat.add_assoc, hs]
  exact Nat.succ_mul _ _

theorem hyperDone_lt (hc : c.cyc < p.ncyc) (hs : c.sub < p.nsub) : hyperDone p c < hyperSteps p :=
  calc c.cyc * p.nsub + c.sub < (c.cyc + 1) * p.nsub := by rw [Nat.succ_mul]; omega
    _ ≤ p.ncyc * p.nsub := Nat.mul_le_mul_right _ hc

theorem hyperDone_last (hc : c.cyc + 1 = p.ncyc) (hs : c.sub + 1 = p.nsub) :
    hyperDone p c + 1 = hyperSteps p := by
  rw [hyperDone, hyperSteps, ← hc, Nat.succ_mul]
  omega

/-- What is left of a COMPUTING phase: the hypercycles after the present one, and this one. -/
theorem mul_hyperSteps_left (hh : c.hyper.toNat < j.nh) :
    (j.nh - c.hyper.toNat) * hyperSteps p = (j.nh - (c.hyper.toNat + 1)) * hyperSteps p + hyperSteps p := by
  rw [← Nat.succ_mul]
  congr 1
  omega

/-! ## Passes -/

/-- While the job is not done a pass is left: the counts stay below the tiles of the job. -/
theorem ProgressInv.passesCounted_lt (h : ProgressInv p j c) (hd : c.jobDone = false) :
    passesCounted j c < j.xRows.toNat * j.wCols.toNat := by
  obtain ⟨-, -, -, -, -, hw, hx, -⟩ := h
  calc c.xRowsIters.toNat * j.wCols.toNat + c.wColsIters.toNat
      _ < (c.xRowsIters.toNat + 1) * j.wCols.toNat := by
        rw [Nat.succ_mul]
        exact Nat.add_lt_add_left hw _
      _ ≤ j.xRows.toNat * j.wCols.toNat := Nat.mul_le_mul_right _ (hx hd)

theorem ProgressInv.passesLeft_pos (h : ProgressInv p j c) (hd : c.jobDone = false) : 0 < passesLeft j c :=
  Nat.sub_pos_of_lt (h.passesCounted_lt hd)

theorem ProgressInv.passesLeft_done (h : ProgressInv p j c) (hd : c.jobDone = true) : passesLeft j c = 0 := by
  obtain ⟨-, -, -, -, -, -, -, hdone⟩ := h
  obtain ⟨hx, hw⟩ := hdone hd
  simp [passesLeft, passesCounted, hx, hw]

/-- The bookkeeping counts one pass (R128). -/
theorem passesCounted_bookkept (hw : c.wColsIters < j.wCols) (hx : c.xRowsIters < j.xRows) (m : Nat) :
    passesCounted j (bookkept p j m c) = passesCounted j c + 1 := by
  have hx1 : (c.xRowsIters + 1).toNat = c.xRowsIters.toNat + 1 := by bv_omega
  have hw1 : (c.wColsIters + 1).toNat = c.wColsIters.toNat + 1 := by bv_omega
  by_cases hcols : c.wColsIters + 1 = j.wCols
  · have hcounts : (bookkept p j m c).xRowsIters = c.xRowsIters + 1 ∧ (bookkept p j m c).wColsIters = 0 := by
      unfold bookkept
      rw [if_pos hcols]
      split <;> exact ⟨rfl, rfl⟩
    rw [passesCounted, hcounts.1, hcounts.2, hx1, Nat.succ_mul, passesCounted, ← hcols, hw1]
    simp [Nat.add_assoc]
  · have hcounts : (bookkept p j m c).xRowsIters = c.xRowsIters ∧
        (bookkept p j m c).wColsIters = c.wColsIters + 1 := by
      unfold bookkept
      rw [if_neg hcols]
      exact ⟨rfl, rfl⟩
    rw [passesCounted, hcounts.1, hcounts.2, hw1, passesCounted, Nat.add_assoc]

theorem passesLeft_bookkept (hw : c.wColsIters < j.wCols) (hx : c.xRowsIters < j.xRows) (m : Nat) :
    passesLeft j (bookkept p j m c) = passesLeft j c - 1 := by
  rw [passesLeft, passesCounted_bookkept hw hx, passesLeft, Nat.sub_add_eq]

/-- The bookkeeping leaves the position alone (R128). -/
theorem hyperDone_bookkept (m : Nat) : hyperDone p (bookkept p j m c) = hyperDone p c := by
  unfold bookkept
  split
  · split <;> rfl
  · rfl

/-- The steps of the passes left are those of one pass and of the rest. -/
theorem ProgressInv.passesLeft_mul (h : ProgressInv p j c) (hd : c.jobDone = false) (k : Nat) :
    passesLeft j c * k = (passesLeft j c - 1) * k + k := by
  rw [← Nat.succ_mul]
  congr 1
  have := h.passesLeft_pos hd
  omega

theorem passSteps_eq (p : Params) (j : Job) : passSteps p j = j.nh * hyperSteps p + hyperSteps p :=
  Nat.succ_mul _ _

/-! ## Every micro-step takes one off -/

/-- From the last step before a pass to the first position of its COMPUTING phase (R121, R130). -/
theorem remainingSteps_passStart (h : ProgressInv p j c) (hd : c.jobDone = false)
    (hlast : remainingSteps p j c = passesLeft j c * passSteps p j + 1) {c' : Sched}
    (hs : c'.state = stComputing) (hh : c'.hyper = 0) (hdone : hyperDone p c' = 0)
    (hpasses : passesLeft j c' = passesLeft j c) :
    remainingSteps p j c' + 1 = remainingSteps p j c := by
  have hpass := h.passesLeft_mul hd (passSteps p j)
  have hsteps := passSteps_eq p j
  have hzero : j.nh - (0 : Word).toNat = j.nh := Nat.sub_zero _
  rw [hlast, remainingSteps_computing hs, hh, hdone, hpasses, hzero]
  omega

theorem remainingSteps_afterPreload (h : ProgressInv p j c) (hs : c.state = stStarting) :
    remainingSteps p j (afterPreload p c) + 1 = remainingSteps p j c := by
  have ⟨hstarting, _⟩ := h
  obtain ⟨hpre, hd, -, -⟩ := hstarting hs
  have hnow := remainingSteps_starting (p := p) (j := j) hs
  unfold afterPreload
  split
  · next hlast =>
    exact remainingSteps_passStart h hd (by omega) rfl rfl (hyperDone_start rfl rfl) rfl
  · next hmore =>
    have hnext : remainingSteps p j { c with pre := c.pre + 1 } =
        (p.npre - (c.pre + 1)) + passesLeft j c * passSteps p j := remainingSteps_starting hs
    omega

/-- One position further in the same hypercycle (R125). -/
theorem remainingSteps_within (h : ProgressInv p j c) (hs : c.state = stComputing ∨ c.state = stStoring)
    {c' : Sched} (hstate : c'.state = c.state) (hh : c'.hyper = c.hyper)
    (hpasses : passesLeft j c' = passesLeft j c) (hnext : hyperDone p c' = hyperDone p c + 1) :
    remainingSteps p j c' + 1 = remainingSteps p j c := by
  obtain ⟨hcyc, hsub⟩ := h.position hs
  have hlt := hyperDone_lt hcyc hsub
  rcases hs with hs | hs
  · obtain ⟨-, hcomputing, -⟩ := h
    have hleft := mul_hyperSteps_left (p := p) (hcomputing hs).1
    rw [remainingSteps_computing hs, remainingSteps_computing (hstate.trans hs), hh, hpasses, hnext]
    omega
  · rw [remainingSteps_storing hs, remainingSteps_storing (hstate.trans hs), hpasses, hnext]
    omega

/-- The next hypercycle of COMPUTING (R126). -/
theorem remainingSteps_nextHyper (h : ProgressInv p j c) (hs : c.state = stComputing)
    (hlast : hyperDone p c + 1 = hyperSteps p) (hnh : j.nh < 2 ^ 32) {c' : Sched}
    (hstate : c'.state = c.state) (hh : c'.hyper = c.hyper + 1)
    (hpasses : passesLeft j c' = passesLeft j c) (hdone : hyperDone p c' = 0) :
    remainingSteps p j c' + 1 = remainingSteps p j c := by
  obtain ⟨-, hcomputing, -⟩ := h
  have hlt := (hcomputing hs).1
  have hleft := mul_hyperSteps_left (p := p) hlt
  have hhyper : c'.hyper.toNat = c.hyper.toNat + 1 := by rw [hh]; bv_omega
  rw [remainingSteps_computing hs, remainingSteps_computing (hstate.trans hs), hhyper, hpasses, hdone]
  omega

/-- The transition into STORING counts the pass (R126, R128). -/
theorem remainingSteps_store (h : ProgressInv p j c) (hs : c.state = stComputing)
    (hlast : hyperDone p c + 1 = hyperSteps p) (hhyper : c.hyper.toNat + 1 = j.nh) {c' : Sched}
    (hstate : c'.state = stStoring) (hpasses : passesLeft j c' = passesLeft j c - 1)
    (hdone : hyperDone p c' = 0) :
    remainingSteps p j c' + 1 = remainingSteps p j c := by
  obtain ⟨-, hcomputing, -⟩ := h
  have hleft := mul_hyperSteps_left (p := p) (hcomputing hs).1
  rw [hhyper, Nat.sub_self, Nat.zero_mul] at hleft
  rw [remainingSteps_computing hs, remainingSteps_storing hstate, hpasses, hdone]
  omega

/-- Each edge of a micro-step takes one off what is left of the job. -/
theorem SchedStep.remainingSteps_succ {c' : Sched} (hstep : SchedStep p j c c') (h : ProgressInv p j c)
    (hnh : j.nh < 2 ^ 32) :
    remainingSteps p j c' + 1 = remainingSteps p j c := by
  cases hstep with
  | preload hs => exact remainingSteps_afterPreload h hs
  | nextSub hs hsub => exact remainingSteps_within h hs rfl rfl rfl (Nat.add_assoc ..).symm
  | nextCyc hs hsub hcyc => exact remainingSteps_within h hs rfl rfl rfl (hyperDone_nextCyc hsub)
  | nextHyper hs hsub hcyc hmore =>
    exact remainingSteps_nextHyper h hs (hyperDone_last hcyc hsub) hnh rfl rfl rfl (hyperDone_start rfl rfl)
  | store hs hsub hcyc hlast m =>
    have ⟨_, hcomputing, _, _, _, hw, hx, _⟩ := h
    exact remainingSteps_store h hs (hyperDone_last hcyc hsub) hlast rfl
      (passesLeft_bookkept (c := c.wrapped) hw (hx (hcomputing hs).2) m)
      ((hyperDone_bookkept (c := c.wrapped) m).trans (hyperDone_start rfl rfl))
  | finish hs hsub hcyc hdone =>
    have hlast := hyperDone_last hcyc hsub
    rw [remainingSteps_finished rfl, remainingSteps_storing hs, h.passesLeft_done hdone]
    omega
  | nextPass hs hsub hcyc hmore =>
    have hlast := hyperDone_last hcyc hsub
    have hnow := remainingSteps_storing (p := p) (j := j) hs
    exact remainingSteps_passStart h hmore (by omega) rfl rfl (hyperDone_start rfl rfl) rfl

/-! ## The end of the job -/

/-- No micro-step is left exactly in FINISHED. -/
theorem remainingSteps_eq_zero_iff (h : ProgressInv p j c)
    (hcode : c.state ≠ stIdle ∧ c.state.toNat ≤ 4) : remainingSteps p j c = 0 ↔ c.state = stFinished := by
  refine ⟨fun hzero => ?_, remainingSteps_finished⟩
  by_contra hf
  have position := fun hs => hyperDone_lt (h.position hs).1 (h.position hs).2
  rcases running_of_code hcode hf with hs | hs | hs
  · obtain ⟨hstarting, -⟩ := h
    have hpre := (hstarting hs).1
    rw [remainingSteps_starting hs] at hzero
    omega
  · have hlt := position (Or.inl hs)
    rw [remainingSteps_computing hs] at hzero
    omega
  · have hlt := position (Or.inr hs)
    rw [remainingSteps_storing hs] at hzero
    omega

/-- At the first preload step the whole job is left (R140). -/
theorem remainingSteps_start (h : ProgressInv p j c) (hs : c.state = stStarting) (hpre : c.pre = 0) :
    remainingSteps p j c = 3 * p.aw + j.xRows.toNat * j.wCols.toNat * passSteps p j := by
  obtain ⟨hstarting, -⟩ := h
  obtain ⟨-, -, hw, hx⟩ := hstarting hs
  have hpasses : passesLeft j c = j.xRows.toNat * j.wCols.toNat := by simp [passesLeft, passesCounted, hw, hx]
  rw [remainingSteps_starting hs, hpasses, hpre]
  rfl

end

/-- Settles O60: the start by the counts of the first preload step, an invocation by the edge its micro-step
takes, the end by the positions of the running states. -/
theorem jobLengthIsRuleR140 : Obligations.JobLengthIsRuleR140 := by
  unfold Obligations.JobLengthIsRuleR140
  intro s t j h hf hj
  have hrun := h.2 hf
  have active : s.sch.state ≠ stIdle → ActiveInv s j := fun hs => by
    obtain ⟨j', hact⟩ := hrun.active hs
    obtain rfl := Option.some.inj (hj.symm.trans hact.job)
    exact hact
  refine ⟨fun hs hpre => remainingSteps_start (active (by simp [hs])).progress hs hpre, fun hm ht htf => ?_⟩
  rcases (exec_schedInvoke_ends h hf hm).of_next ht with ⟨j', hj', hadv⟩ | ⟨hraised, -⟩
  · obtain rfl := Option.some.inj (hj.symm.trans hj')
    obtain ⟨hact', hcode, hpar, c, lat, hstep, hsch⟩ := hadv
    obtain ⟨hs, -⟩ := hrun.running hm
    have hact := active (by rcases hs with hs | hs | hs <;> simp [hs])
    have hnh : j.nh < 2 ^ 32 := Nat.lt_of_le_of_lt (hact.jobInv.nh_bounds h.1).2 j.n.isLt
    refine ⟨hact'.job, ?_, remainingSteps_eq_zero_iff hact'.progress hcode⟩
    rw [hpar, hsch]
    exact hstep.remainingSteps_succ hact.progress hnh
  · simp [htf] at hraised

end Sys2Proof.Machine

/-! # The bookkeeping of a pass (43_scheduler R128) -/

namespace Sys2Proof.Machine

section
variable {p : Params} {j : Job}

/-- A leftover strobe is a block of ones from bit 0 on (44_strobe R143, R146). -/
theorem mkStrobe_eq {count : Nat} (heb : p.eb = 1 ∨ p.eb = 2 ∨ p.eb = 4) (hc : count < p.aw) :
    mkStrobe p count p.eb = some (2 ^ (count * p.eb) - 1) := by
  obtain ⟨m, hm, hbits⟩ := mkStrobe_testBit heb hc
  rw [hm]
  congr 1
  exact Nat.eq_of_testBit_eq fun q => (hbits q).trans (Nat.testBit_two_pow_sub_one _ q).symm

theorem lastTileStrobe_eq (heb : p.eb = 1 ∨ p.eb = 2 ∨ p.eb = 4) (hlo : j.wColLo.toNat < p.aw) :
    lastTileStrobe p j =
      some (if j.wColLo = 0 then p.full else 2 ^ (j.wColLo.toNat * p.eb) - 1) := by
  unfold lastTileStrobe
  by_cases h0 : j.wColLo = 0
  · rw [if_neg (not_not.2 h0), if_pos h0]
  · rw [if_pos h0, if_neg h0, mkStrobe_eq heb hlo]

/-- The bookkeeping of a last W-column tile, field by field (R128). -/
theorem bookkept_lastTile {c : Sched} (hcols : c.wColsIters + 1 = j.wCols) (m : Nat) :
    bookkept p j m c = { c with
      wColsIters := 0, xRowsIters := c.xRowsIters + 1, zStrb := m
      jobDone := if c.xRowsIters + 1 = j.xRows then true else c.jobDone
      finalRow := if c.xRowsIters + 1 = j.xRows ∧ j.xRowLo ≠ 0 then true else c.finalRow } := by
  by_cases hrows : c.xRowsIters + 1 = j.xRows
  · simp only [bookkept, if_pos hcols, hrows, true_and, if_true]
  · simp only [bookkept, if_pos hcols, hrows, false_and, if_false]

end

/-- Settles O51: the strobe of the last tile by `lastTileStrobe_eq`, the counts and flags by the tests of
`bookkept`. -/
theorem passBookkeeping : Obligations.PassBookkeeping := by
  unfold Obligations.PassBookkeeping
  intro s j hj heb hlo
  rw [storeBookkeeping_eq hj (lastTileStrobe_eq heb hlo)]
  refine ⟨fun hcols => ?_, fun hcols => ?_⟩
  · rw [bookkept, if_neg hcols]
    rfl
  · rw [bookkept_lastTile hcols]
    rfl

end Sys2Proof.Machine

/-! # The micro-steps of a running job (43_scheduler R121 to R127) -/

namespace Sys2Proof.Machine

/-! ## The stream step of the turn -/

/-- The stream step of the turn has succeeded: the job is still active, and the scheduler as it was. -/
structure TurnStep (s : State) (j : Job) (lat : Nat) (u : State) : Prop where
  step : doStep (turnSel (turn s)) s = .ok lat u
  active : ActiveInv u j
  sch : u.sch = s.sch
  par : u.par = s.par
  fault : u.fault = none

/-- A running block whose access, if its micro-step makes one, succeeds has such a step. -/
theorem BlockInv.exists_turnStep {s : State} (h : BlockInv s) (hf : s.fault = none) (hs : Running s.sch)
    (ha : AccessSucceeds s) : ∃ j lat u, s.job = some j ∧ TurnStep s j lat u := by
  obtain ⟨-, -, j, hact⟩ := (h.2 hf).running ((h.2 hf).mainPending_iff.2 hs)
  have hends := doStep_ends hact (turn s)
  cases hstep : doStep (turnSel (turn s)) s with
  | ok lat u =>
    rw [hstep] at hends
    obtain ⟨hactu, hk, hsch⟩ := hends
    exact ⟨j, lat, u, hact.job, hstep, hactu, hsch, hk.par, hk.fault.trans hf⟩
  | fatal u => exact absurd hstep (doStep_turn_ne_fatal ha u)
  | refused why => rw [hstep] at hends; exact hends.elim

section
variable {s u : State} {j : Job} {lat : Nat}

theorem TurnStep.exec_turn (h : TurnStep s j lat u) (hf : s.fault = none) :
    exec (turnStep (turn s)) s = .next (u.setResult (.latency lat)) := by
  rw [exec_turnStep, unlessStopped_of_none s _ hf, h.step, finish_ok]

/-! ## STARTING (R121) -/

theorem turnStep_starting (hs : s.sch.state = stStarting) :
    turnStep (turn s) = if s.sch.pre < s.par.aw then .stepY else .stepX := by
  rw [turn, if_pos hs]
  simp only [apply_ite turnStep]
  rfl

theorem TurnStep.exec_fsmStarting (h : TurnStep s j lat u) (hf : s.fault = none)
    (hs : s.sch.state = stStarting) :
    exec .fsmStarting s =
      .next ((u.setSch (afterPreload s.par s.sch)).setResult (.latency lat)) := by
  have hmicro : microStarting s = .ok lat (u.setSch (afterPreload s.par s.sch)) := by
    rw [microStarting, turnSel_starting hs, h.step, Res.bind_ok, h.par, h.sch]
  rw [exec, execFsmStarting, unlessStopped_of_none s _ hf, hmicro, finish_ok]

/-- Settles O48: the stream step of the turn, then the count. -/
theorem startingMicroStepCompletes : Obligations.StartingMicroStepCompletes := by
  unfold Obligations.StartingMicroStepCompletes
  intro s h hf hs ha
  obtain ⟨j, lat, u, -, hturn⟩ := h.exists_turnStep hf (Or.inl hs) ha
  refine ⟨u.setResult (.latency lat), ?_, hturn.fault, hturn.exec_fsmStarting hf hs⟩
  rw [← turnStep_starting hs]
  exact hturn.exec_turn hf

/-! ## A phase of hypercycles (R122, R125) -/

/-- After the stream step of a phase the position advances. -/
theorem TurnStep.microPhase_ok {e : State → Res Unit} {t : State} (h : TurnStep s j lat u)
    (hn : nextPosition e u = .ok () t) : microPhase (turnSel (turn s)) e s = .ok lat t := by
  rw [microPhase, h.step, Res.bind_ok, hn, Res.bind_ok]

/-! ## STORING (R127, R130) -/

/-- The scheduler after a micro-step of STORING, from before it. -/
def afterStoring (p : Params) (c : Sched) : Sched :=
  if c.sub + 1 ≠ p.nsub then { c with sub := c.sub + 1 }
  else if c.cyc + 1 ≠ p.ncyc then { c with sub := 0, cyc := c.cyc + 1 }
  else if c.jobDone = true then { c.wrapped with state := stFinished }
  else { c.wrapped with state := stComputing, hyper := 0 }

theorem nextPosition_endStoring (s : State) :
    nextPosition endStoring s = .ok () (s.setSch (afterStoring s.par s.sch)) := by
  rcases nextPosition_cases endStoring s with ⟨hsub, hn⟩ | ⟨hsub, hcyc, hn⟩ | ⟨hsub, hcyc, hn⟩ <;>
    rw [hn, afterStoring]
  · rw [if_pos hsub]
  · rw [if_neg (not_not.2 hsub), if_pos hcyc]
  · rw [if_neg (not_not.2 hsub), if_neg (not_not.2 hcyc)]
    change endStoring (s.setSch s.sch.wrapped) = _
    cases hdone : s.sch.jobDone with
    | true => exact if_pos hdone
    | false => exact if_neg (by simp [Sched.wrapped, hdone])

theorem turnStep_storing (hs : s.sch.state = stStoring) :
    turnStep (turn s) = if s.sch.sub = 0 then .stepW
      else if s.par.pr < s.sch.sub then .stepNone
      else if s.sch.cyc = 0 then .stepZ
      else if s.sch.cyc = 1 then .stepY
      else if s.sch.cyc + 2 = s.par.h then .stepX
      else .stepNone := by
  rw [turn, if_neg (by simp [hs]), if_neg (by simp [hs]), if_pos hs]
  simp only [apply_ite turnStep]
  rfl

theorem TurnStep.exec_fsmStoring (h : TurnStep s j lat u) (hf : s.fault = none)
    (hs : s.sch.state = stStoring) :
    exec .fsmStoring s =
      .next ((u.setSch (afterStoring s.par s.sch)).setResult (.latency lat)) := by
  have hn := nextPosition_endStoring u
  rw [h.par, h.sch] at hn
  rw [exec, execFsmStoring, unlessStopped_of_none s _ hf, microStoring, turnSel_storing hs,
    h.microPhase_ok hn, finish_ok]

/-- Settles O50: the stream step of the turn, then the position of `afterStoring`. -/
theorem storingMicroStepCompletes : Obligations.StoringMicroStepCompletes := by
  unfold Obligations.StoringMicroStepCompletes
  intro s h hf hs ha
  obtain ⟨j, lat, u, -, hturn⟩ := h.exists_turnStep hf (Or.inr (Or.inr hs)) ha
  refine ⟨u.setResult (.latency lat), ?_, hturn.fault, hturn.exec_fsmStoring hf hs⟩
  rw [← turnStep_storing hs]
  exact hturn.exec_turn hf

/-! ## COMPUTING (R124, R126) -/

theorem turnStep_computing (hs : s.sch.state = stComputing) :
    turnStep (turn s) = if s.sch.sub = 0 then .stepW
      else if s.sch.sub ≤ s.par.pr ∧ s.sch.hyper = 0 ∧ s.sch.cyc ∈ s.par.xload then .stepX
      else .stepNone := by
  rw [turn, if_neg (by simp [hs]), if_pos hs]
  simp only [apply_ite turnStep]
  rfl

theorem TurnStep.exec_fsmComputing {t : State} (h : TurnStep s j lat u) (hf : s.fault = none)
    (hs : s.sch.state = stComputing) (hn : nextPosition endComputing u = .ok () t) :
    exec .fsmComputing s = .next (t.setResult (.latency lat)) := by
  rw [exec, execFsmComputing, unlessStopped_of_none s _ hf, microComputing, turnSel_computing hs,
    h.microPhase_ok hn, finish_ok]

/-- An active job's kernel succeeds: it writes the tile store, and reads neither the scheduler nor the last result
(42_tile_store R104). -/
theorem ActiveInv.computeZ_eq (h : ActiveInv s j) :
    ∃ ts, ∀ t : State, t.job = s.job → t.ts = s.ts → t.par = s.par → computeZ t = .ok () (t.setTs ts) := by
  obtain ⟨⟨w, hw, -⟩, ⟨x, hx, -⟩, -⟩ := h.tiles.loaded
  rw [Option.mem_def] at hw hx
  refine ⟨{ s.ts with
    z := kernelTile s.par s.ts x w j.n.toNat
    xOffs := (s.ts.xOffs + (j.n.toNat + j.xpad)) % s.ts.xCap
    yOffs := if s.ts.yOffs = 0 then s.par.aw else 0 }, fun t hj hts hp => ?_⟩
  rw [computeZ, hts, hp, hj, h.job, hw, hx]

/-- The end of a COMPUTING hypercycle that is not the last (R126). -/
theorem endComputing_more (hj : s.job = some j) (hmore : s.sch.hyper.toNat + 1 ≠ j.nh) :
    endComputing s = .ok () (s.setSch { s.sch with hyper := s.sch.hyper + 1 }) := by
  simp only [endComputing, hj, if_neg hmore]

/-- The end of the last: the kernel, the bookkeeping, STORING (R126). -/
theorem endComputing_last {ts : TileStore} {b : State} (hj : s.job = some j)
    (hlast : s.sch.hyper.toNat + 1 = j.nh) (hz : computeZ s = .ok () (s.setTs ts))
    (hb : storeBookkeeping (s.setTs ts) = .ok () b) : endComputing s = .ok () (enterStoring b) := by
  simp only [endComputing, hj, if_pos hlast, hz, Res.bind_ok, hb]

end

/-- Settles O49: the stream step of the turn, then one of the four next positions. -/
theorem computingMicroStepCompletes : Obligations.ComputingMicroStepCompletes := by
  unfold Obligations.ComputingMicroStepCompletes
  intro s j h hf hs hj ha
  obtain ⟨j', lat, u, hj', hturn⟩ := h.exists_turnStep hf (Or.inr (Or.inl hs)) ha
  obtain rfl := Option.some.inj (hj.symm.trans hj')
  have hstep := hturn.exec_turn hf
  rw [turnStep_computing hs] at hstep
  have hmicro := fun t => hturn.exec_fsmComputing (t := t) hf hs
  have hcases := nextPosition_cases endComputing u
  rw [hturn.sch, hturn.par] at hcases
  rcases hcases with ⟨hsub, hn⟩ | ⟨hsub, hcyc, hn⟩ | ⟨hsub, hcyc, hn⟩
  · exact ⟨_, _, hstep, hturn.fault, hmicro _ hn, hturn.fault, fun _ => rfl, fun h => absurd h hsub,
      fun h => absurd h hsub, fun h => absurd h hsub⟩
  · exact ⟨_, _, hstep, hturn.fault, hmicro _ hn, hturn.fault, fun h => absurd hsub h, fun _ _ => rfl,
      fun _ h => absurd h hcyc, fun _ h => absurd h hcyc⟩
  · by_cases hhyper : s.sch.hyper.toNat + 1 = j.nh
    · obtain ⟨ts, hz⟩ := hturn.active.computeZ_eq
      obtain ⟨m, hm, -⟩ := lastTileStrobe_lt (p := u.par) (by rw [hturn.par]; exact h.1) j
      have hbook := storeBookkeeping_eq (s := (u.setSch s.sch.wrapped).setTs ts) hturn.active.job hm
      have hend := hn.trans (endComputing_last (s := u.setSch s.sch.wrapped) hturn.active.job hhyper
        (hz _ rfl rfl rfl) hbook)
      refine ⟨_, _, hstep, hturn.fault, hmicro _ hend, hturn.fault, fun h => absurd hsub h,
        fun _ h => absurd hcyc h, fun _ _ h => absurd hhyper h, fun _ _ _ => ?_⟩
      refine ⟨(u.setResult (.latency lat)).setTs ts, _, ?_, storeBookkeeping_eq hturn.active.job hm, rfl⟩
      have hz' := hz (u.setResult (.latency lat)) rfl rfl rfl
      rw [exec, execTsComputez, hz', finishUnit_ok]
      exact unlessStopped_of_none _ _ hturn.fault
    · have hend := hn.trans (endComputing_more (s := u.setSch s.sch.wrapped) hturn.active.job hhyper)
      exact ⟨_, _, hstep, hturn.fault, hmicro _ hend, hturn.fault, fun h => absurd hsub h,
        fun _ h => absurd hcyc h, fun _ _ _ => rfl, fun _ _ h => absurd h hhyper⟩

end Sys2Proof.Machine

/-! # MKSTROBE as an operation (44_strobe R143, R145) -/

namespace Sys2Proof.Machine

/-- A width outside 1, 2, 4 has no base mask (R145). -/
theorem baseMask_eq_none {width : Nat} (h1 : width ≠ 1) (h2 : width ≠ 2) (h4 : width ≠ 4) :
    baseMask width = none := by
  unfold baseMask
  split
  · exact absurd rfl h1
  · exact absurd rfl h2
  · exact absurd rfl h4
  · rfl

/-- The construction and the closed form of R143 are the same number. -/
theorem orCopies_eq (width count : Nat) :
    orCopies (2 ^ width - 1) width count = 2 ^ (count * width) - 1 :=
  Nat.eq_of_testBit_eq fun q =>
    (orCopies_testBit width count q).trans (Nat.testBit_two_pow_sub_one _ q).symm

/-- The closed form cut to the line, for every count (R143). -/
theorem mkStrobe_closedForm (p : Params) (count : Nat) {width : Nat} (h : width = 1 ∨ width = 2 ∨ width = 4) :
    mkStrobe p count width = some ((2 ^ (count * width) - 1) % 2 ^ p.lb) := by
  rw [mkStrobe, baseMask_eq h, Option.map_some, orCopies_eq]

theorem mkStrobe_eq_none {p : Params} {count width : Nat} (h : baseMask width = none) :
    mkStrobe p count width = none := by
  rw [mkStrobe, h, Option.map_none]

theorem exec_mkstrobe {s : State} (hf : s.fault = none) (count width : Nat) :
    exec (.mkstrobe count width) s = finish (strobeOf count width s) .strobe :=
  unlessStopped_of_none _ _ hf

/-- The block of ones of `count` elements lies in a line of at least as many. -/
theorem ones_mod_line {count aw : Nat} (eb : Nat) (h : count ≤ aw) :
    (2 ^ (count * eb) - 1) % 2 ^ (aw * eb) = 2 ^ (count * eb) - 1 := by
  have hle : 2 ^ (count * eb) ≤ 2 ^ (aw * eb) := Nat.pow_le_pow_right two_pos (Nat.mul_le_mul_right eb h)
  have hpos : 0 < 2 ^ (count * eb) := Nat.two_pow_pos _
  exact Nat.mod_eq_of_lt (by omega)

/-- Settles O42: the construction is the closed form, and without a base mask there is none. -/
theorem mkstrobeCompletes : Obligations.MkstrobeCompletes := by
  unfold Obligations.MkstrobeCompletes
  intro s count width hf
  refine ⟨fun hw => ?_, fun hc hw => ?_, fun h1 h2 h4 => ?_⟩
  · rw [exec_mkstrobe hf, strobeOf, mkStrobe_closedForm s.par count hw]
    rfl
  · subst hw
    exact ones_mod_line s.par.eb (Nat.le_of_lt hc)
  · rw [exec_mkstrobe hf, strobeOf, mkStrobe_eq_none (baseMask_eq_none h1 h2 h4)]
    rfl

end Sys2Proof.Machine

/-! # Fatal conditions at the boundary (60_exceptions R147 to R152) -/

namespace Sys2Proof.Machine

/-- Settles O20: by the test of the fault register with which every operation begins. -/
theorem noEffectWhileFaultIsSet : Obligations.NoEffectWhileFaultIsSet := by
  unfold Obligations.NoEffectWhileFaultIsSet
  intro i s f hf
  exact exec_of_fault i hf

/-- The fault register holds none of BAD_STATE, BAD_SELECTOR and DOUBLE_SCHEDULE (R148, R149, R151). -/
def NoInternalFatal (t : State) : Prop :=
  ∀ f, t.fault = some f → fatalCode f ≠ 1 ∧ fatalCode f ≠ 2 ∧ fatalCode f ≠ 4

section
variable {s t : State}

theorem NoInternalFatal.of_none (h : t.fault = none) : NoInternalFatal t := by
  intro f hf
  rw [h] at hf
  cases hf

theorem NoInternalFatal.of_some {f : Fatal} (h : t.fault = some f)
    (hc : fatalCode f ≠ 1 ∧ fatalCode f ≠ 2 ∧ fatalCode f ≠ 4) : NoInternalFatal t := by
  intro g hg
  obtain rfl : f = g := Option.some.inj (h.symm.trans hg)
  exact hc

/-! ## Each operation of the boundary -/

/-- A register is written, or `CFG_WHILE_BUSY` recorded (R152). -/
theorem cfgWrite_noInternalFatal (r : CfgReg) (v : Word) (hf : s.fault = none) :
    StepEnds NoInternalFatal False (cfgWrite r v s) := by
  by_cases hidle : s.sch.state = stIdle
  · rw [cfgWrite_of_idle hf hidle]
    exact .of_none hf
  · rw [cfgWrite_of_busy hf hidle]
    exact .of_some rfl (by simp [fatalCode])

/-- A job starts, or `TRIGGER_WHILE_BUSY` or `BAD_CONFIG` is recorded (R152). -/
theorem exec_trigger_noInternalFatal (d : Word) (hf : s.fault = none) :
    StepEnds NoInternalFatal False (exec (.trigger d) s) := by
  by_cases hidle : s.sch.state = stIdle
  · cases hcheck : cfgCheck s.par s.cfg with
    | some check =>
      rw [exec_trigger_of_invalid hf hidle hcheck]
      exact .of_some rfl (by simp [fatalCode])
    | none =>
      rw [exec_entry hf ((cfgCheck_eq_none_iff _ _).1 hcheck) (Or.inl ⟨rfl, hidle⟩)]
      exact .of_none hf
  · rw [exec_trigger_of_busy hf hidle]
    exact .of_some rfl (by simp [fatalCode])

/-- Where the next access does not succeed, it is a stream's turn and the memory reports another status. -/
theorem failing_access (h : ¬ AccessSucceeds s) : ∃ str s1 c l, turn s = some str ∧
    (s.sg.desc str).doneCnt ≠ (s.sg.desc str).totLen ∧ nextAnswer s = (⟨.other c, l⟩, s1) := by
  obtain ⟨⟨str, hturn, hd⟩, hstatus⟩ := Classical.not_imp.1 h
  rcases hn : nextAnswer s with ⟨⟨status, l⟩, s1⟩
  cases status with
  | success => exact absurd (by rw [hn]) hstatus
  | other c => exact ⟨str, s1, c, l, hturn, hd, rfl⟩

/-- An invocation of a running job raises nothing but `MEM_STATUS`, and that only where its access fails (R118,
R150). -/
theorem exec_schedInvoke_noInternalFatal (h : BlockInv s) (hf : s.fault = none) :
    StepEnds NoInternalFatal False (exec .schedInvoke s) := by
  cases hm : s.mainPending with
  | false =>
    rw [exec, execSchedInvoke, hm, unlessStopped_of_none s _ hf]
    exact .of_none hf
  | true =>
    obtain ⟨hsucceeds, hfails⟩ := invocationCompletes s h hf hm
    by_cases ha : AccessSucceeds s
    · obtain ⟨u, lat, -, -, -, hu, he⟩ := hsucceeds ha
      rw [he]
      exact .of_none hu
    · obtain ⟨str, s1, c, l, hturn, hd, hn⟩ := failing_access ha
      obtain ⟨u, -, hu, -, -, -, he⟩ := hfails str s1 c l hturn hd hn
      rw [he]
      exact .of_some hu (by simp [fatalCode])

theorem exec_schedComplete_noInternalFatal (hf : s.fault = none) :
    StepEnds NoInternalFatal False (exec .schedComplete s) := by
  rw [exec, execSchedComplete, unlessStopped_of_none s _ hf, completeIfPending]
  split <;> exact .of_none hf

theorem exec_noInternalFatal {i : Instr} (hi : BoundaryOp i) (h : BlockInv s) (hf : s.fault = none) :
    StepEnds NoInternalFatal False (exec i s) := by
  cases hi with
  | cfgwr r v => rw [exec_cfgwrOf]; exact cfgWrite_noInternalFatal r v hf
  | trigger d => exact exec_trigger_noInternalFatal d hf
  | irqclr d => rw [exec_irqclr hf]; exact .of_none hf
  | schedInvoke => exact exec_schedInvoke_noInternalFatal h hf
  | schedComplete => exact exec_schedComplete_noInternalFatal hf

/-! ## Every step of the boundary -/

theorem ownAction_noInternalFatal (h : BlockInv s) (hf : s.fault = none) :
    ActionEnds NoInternalFatal False (ownAction s) := by
  unfold ownAction
  simp only [hf]
  split
  · exact exec_schedComplete_noInternalFatal hf
  split
  · exact exec_schedInvoke_noInternalFatal h hf
  · exact .of_none hf

/-- A word of the boundary runs an operation of the boundary, or `BAD_OFFSET` is recorded (R152). -/
theorem presentWord_noInternalFatal {w : OpWord} (hw : (Input.word w).atBoundary = true) (h : BlockInv s)
    (hf : s.fault = none) : ActionEnds NoInternalFatal False (presentWord w s) := by
  rcases presentWord_cases hw s with ⟨i, he, hi⟩ | ⟨o, he⟩ <;> rw [he]
  · exact exec_noInternalFatal hi h hf
  · rw [raiseFatal_of_none _ s hf]
    exact .of_some rfl (by simp [fatalCode])

theorem nextAction_noInternalFatal (h : BlockInv s) (hb : s.boundaryOnly) (hf : s.fault = none) :
    ActionEnds NoInternalFatal False (nextAction s) := by
  unfold nextAction
  split
  · exact ownAction_noInternalFatal h hf
  · exact .of_none rfl
  · exact .of_none hf
  · next w rest hi =>
    exact presentWord_noInternalFatal (s := s.setInbox rest) (hb _ (by simp [hi])) h hf

end

/-- Settles O59: what a step of the boundary raises is a refusal of a host command or, in an invocation, the
`MEM_STATUS` of its access. -/
theorem internalFatalsAreUnreachable : Obligations.InternalFatalsAreUnreachable := by
  unfold Obligations.InternalFatalsAreUnreachable
  intro s t f h hb hf ht
  exact (stepEnds_step (nextAction_noInternalFatal h hb hf)).of_next ht f

end Sys2Proof.Machine
